-- ==== Sys2Proof/Word.lean ====
section
/-! DEFINITION. The value type of the core (spec/00_scope.md R7, R9), and the bounds of its addresses. An address (`Addr`
of R9) names one whole cell and is held as a natural number. -/

namespace Sys2Proof

/-- `Val` of R9: a signed 64-bit integer, held as its two's complement bit vector, so that no value outside
the range can be written down. Every rule reads a value through `BitVec.toInt` (log 1). -/
abbrev Val := BitVec 64

/-- The least value, `-2^63` (R7). -/
def minInt : Int := -9223372036854775808

/-- The greatest value, `2^63 - 1` (R7). -/
def maxInt : Int := 9223372036854775807

/-- A mathematical integer that is a `Val` (R9). -/
abbrev InRange (n : Int) : Prop := minInt ≤ n ∧ n ≤ maxInt

/-- The number of addresses, `2^ADDR_BITS` with `ADDR_BITS = 64` (R7, log 27). -/
def addressSpace : Nat := 18446744073709551616

/-- The number of addresses a `Val` can name, `2^63` (R32, R61): those a program can read or write as data. -/
def dataSpace : Nat := 9223372036854775808

end Sys2Proof
end

