-- ==== Sys2Proof/Machine/State.lean ====
section
/-! DEFINITION. The state of one engine (spec/10_state.md R21) with the queues behind its two ports (R32), as plain
data, and its value after reset (R35). -/

namespace Sys2Proof.Machine

/-- The eight fault kinds (spec/60_exceptions.md R200). -/
inductive FaultKind where
  | unknownOpcode
  | invalidAddressingMode
  | invalidWriteTarget
  | negativeAddress
  | arithmeticOverflow
  | channelClosed
  | doubleTransportClaim
  | memoryExhausted
  deriving DecidableEq, Repr

/-- The `detail` recorded with a fault (R200, spec/10_state.md R28). -/
inductive FaultDetail where
  /-- no detail: ArithmeticOverflow, ChannelClosed, DoubleTransportClaim -/
  | nothing
  /-- the instruction word: UnknownOpcode -/
  | word (w : Val)
  /-- the parameter and its bad mode digit: InvalidAddressingMode -/
  | mode (p digit : Nat)
  /-- the parameter number: InvalidWriteTarget -/
  | param (p : Nat)
  /-- the negative value: NegativeAddress -/
  | value (v : Val)
  /-- the address that could not be materialised: MemoryExhausted -/
  | address (a : Nat)
  deriving DecidableEq, Repr

/-- What an instruction raises (spec/00_scope.md R10): `raise K(detail)`. -/
structure Trap where
  kind : FaultKind
  detail : FaultDetail
  deriving DecidableEq, Repr

/-- The record inside `Faulted(kind, info)` (spec/10_state.md R28): `info` is `(ip, w, detail)`. -/
structure FaultRecord where
  kind : FaultKind
  ip : Nat
  word : Val
  detail : FaultDetail
  deriving DecidableEq, Repr

/-- The status (R27). -/
inductive Status where
  | running
  | halted
  | faulted (record : FaultRecord)
  deriving DecidableEq, Repr

/-- The transport's mode (R29). -/
inductive TransportMode where
  | interactive
  | channel
  deriving DecidableEq, Repr

/-- What an Interactive Input gets from an event of its terminal, and the values the parameters ON_BAD_INPUT and ON_EOF
range over (spec/42_io.md R148; that they range over these three is the model's choice, log 17). -/
inductive TerminalReply where
  /-- the Input receives this value -/
  | value (v : Val)
  /-- the Input goes on waiting -/
  | retry
  /-- the Input raises this fault -/
  | fault (t : Trap)
  deriving DecidableEq, Repr

/-- The default of ON_BAD_INPUT and ON_EOF: "to raise `ChannelClosed`" (spec/42_io.md R148, log 17). -/
def noMoreInput : TerminalReply := .fault ⟨.channelClosed, .nothing⟩

/-- The arguments of construction beside the program (spec/00_scope.md R7, spec/42_io.md R148), each at its default. -/
structure Setup where
  /-- `MEM_CAPACITY` (log 15) -/
  memCapacity : Option Nat := none
  /-- `ON_BAD_INPUT` (log 17) -/
  onBadInput : TerminalReply := noMoreInput
  /-- `ON_EOF` (log 17) -/
  onEndOfFile : TerminalReply := noMoreInput
  /-- MODEL'S OWN: the number of the engine's terminal (log 36) -/
  terminal : Nat := 0
  deriving DecidableEq, Repr

/-- Main memory (spec/20_memory.md R50): the cells whose value is not 0, by rising address; every other cell reads
0 (R52, log 2). -/
abbrev Memory := List (Nat × Val)

/-- Why the machine stops without a next state. The spec's own faults are next states with a `Faulted` status
(spec/60_exceptions.md R210), not these. -/
inductive Fault where
  /-- raised by `step` when `ip` is no address, that is `2^64` or more; no run reaches it (spec/10_state.md R24).
  Safe: the model stops (log 3). -/
  | ipOutsideAddressSpace (ip : Nat)
  deriving DecidableEq, Repr

/-- What the model gives no meaning. -/
inductive Refusal where
  /-- raised by `exec` for an instruction that has no meaning yet. Safe: the model stops. -/
  | notModelled (mnemonic : String)
  /-- raised by the attach request after the first step request ("the model gives it no meaning",
  spec/60_exceptions.md R242), but for a claimed engine that still runs. Safe (log 21). -/
  | attachAfterStart
  /-- raised by a host request that needs an endpoint the host does not hold (spec/42_io.md R147). Safe (log 24). -/
  | endpointNotHeld
  /-- raised by a request to a system about an engine it does not have. Safe (log 24). -/
  | noSuchEngine
  /-- raised by a request to a dropped engine ("executes nothing further", spec/60_exceptions.md R245).
  Safe (log 24, log 34). -/
  | engineDropped
  /-- raised by wiring after an engine has started ("wires them ... and only then starts", R235). Safe (log 24). -/
  | wiringAfterStart
  deriving DecidableEq, Repr

/-- The state of one engine and of the queues behind its ports. -/
structure State where
  /-- `mem` (R21): see `Memory`. -/
  mem : Memory
  /-- `N`, the length of the dense prefix, a constant of the engine (R21). -/
  progLen : Nat
  /-- `ext` (R21, R33): the addresses at or above `N` that have been written, rising (log 32). -/
  ext : List Nat
  /-- `MEM_CAPACITY` (spec/20_memory.md R60), a constant of the engine; `none` is unbounded (log 15). -/
  memCapacity : Option Nat
  /-- the relative-base register (R26). -/
  rb : Val
  /-- the instruction pointer (R22), an unbounded natural number (R24, log 3). -/
  ip : Nat
  /-- the status (R27). -/
  status : Status
  /-- the transport's mode (R29). -/
  tmode : TransportMode
  /-- the channel endpoints have been handed out (R29). -/
  claimed : Bool
  /-- a step has been requested (R29). -/
  started : Bool
  /-- the input queue, oldest first (R32, spec/42_io.md R145). -/
  inq : List Val
  /-- a sender of the input queue exists (spec/42_io.md R145). -/
  inOpen : Bool
  /-- the output queue, oldest first (spec/42_io.md R146); in Interactive mode the values printed (log 19). -/
  outq : List Val
  /-- the prompts of the Interactive terminal's stream (spec/42_io.md R148), oldest first, each as the number of
  values printed before it (log 18). -/
  prompts : List Nat
  /-- MODEL'S OWN: the Input that waits has shown its prompt (log 18). -/
  prompted : Bool
  /-- MODEL'S OWN: how many free events of the terminal have been drawn (log 16). -/
  termDraws : Nat
  /-- MODEL'S OWN: the number of the engine's Interactive terminal, a constant of the engine (log 36). -/
  terminal : Nat
  /-- `ON_BAD_INPUT` (spec/42_io.md R148), a constant of the engine: what a line that is not a number does (log 17). -/
  onBadInput : TerminalReply
  /-- `ON_EOF` (spec/42_io.md R148), a constant of the engine: what the end of the input does (log 17). -/
  onEndOfFile : TerminalReply
  deriving DecidableEq, Repr

/-- The engine right after construction from the empty program (R35, R250); a program is loaded by
`State.construct` (log 22). -/
def State.reset : State where
  mem := []
  progLen := 0
  ext := []
  memCapacity := none
  rb := 0
  ip := 0
  status := .running
  tmode := .interactive
  claimed := false
  started := false
  inq := []
  inOpen := true
  outq := []
  prompts := []
  prompted := false
  termDraws := 0
  terminal := 0
  onBadInput := noMoreInput
  onEndOfFile := noMoreInput

end Sys2Proof.Machine
end

