-- ==== Sys2Proof/Machine/Ops.lean ====
section
/-! DEFINITION. The operations over memory and the registers (spec/20_memory.md), taking a fault
(spec/60_exceptions.md R210) and the commit of a step (spec/40_execution_cycle.md R117). -/

namespace Sys2Proof.Machine

/-! ### Main memory -/

/-- The canonical form: addresses strictly rising, no cell equal to what an unlisted address reads as. -/
abbrev Memory.wf (m : Memory) : Prop := m.Pairwise (fun c d => c.1 < d.1) ∧ ∀ c ∈ m, c.2 ≠ 0

/-- `MemRead(a, 1)` (R52): a cell that was never written reads 0. Both tiers of R51 are read here. -/
def Memory.read : Memory → Nat → Val
  | [], _ => 0
  | c :: m, a => if c.1 = a then c.2 else Memory.read m a

/-- Puts a cell in front, unless it holds what an unlisted cell reads as. -/
def Memory.cons (a : Nat) (v : Val) (m : Memory) : Memory := if v = 0 then m else (a, v) :: m

/-- The cell at `a` takes the value `v` (R53), keeping the canonical form. -/
def Memory.write : Memory → Nat → Val → Memory
  | [], a, v => Memory.cons a v []
  | c :: m, a, v =>
    if a < c.1 then Memory.cons a v (c :: m)
    else if a = c.1 then Memory.cons a v m
    else c :: Memory.write m a v

/-- Consecutive cells from `a` on take the values of a list. -/
def Memory.writeList : Memory → Nat → List Val → Memory
  | m, _, [] => m
  | m, a, v :: vs => Memory.writeList (m.write a v) (a + 1) vs

/-- `ext ∪ {a}` on a rising list (R53). -/
def extInsert : List Nat → Nat → List Nat
  | [], a => [a]
  | b :: e, a => if a < b then a :: b :: e else if a = b then b :: e else b :: extInsert e a

/-! ### Reading and changing the state -/

/-- `MemRead(a, 1)` of the engine (R52): every read of the machine goes through here. -/
def State.read (s : State) (a : Nat) : Val := s.mem.read a

/-- `MemWrite(a, 1, v)` without the capacity check (R53): the cell is written and, at or above `N`, materialised. -/
def State.store (s : State) (a : Nat) (v : Val) : State :=
  { s with mem := s.mem.write a v, ext := if a < s.progLen then s.ext else extInsert s.ext a }

/-- `ip <- ip + size` (spec/40_execution_cycle.md R118). -/
def State.advance (s : State) (size : Nat) : State := { s with ip := s.ip + size }

/-- `ip <- target` of a taken jump (R118). -/
def State.jump (s : State) (target : Nat) : State := { s with ip := target }

/-- `rb <- v` (spec/45_relative_base.md R180). -/
def State.setRb (s : State) (v : Val) : State := { s with rb := v }

/-- `status <- Halted` (spec/46_halt.md R185). -/
def State.halt (s : State) : State := { s with status := .halted }

/-- `started <- true` (spec/60_exceptions.md R240). -/
def State.start (s : State) : State := { s with started := true }

/-- The step is still enabled (spec/40_execution_cycle.md R110). -/
def State.isRunning (s : State) : Bool :=
  match s.status with
  | .running => true
  | .halted => false
  | .faulted _ => false

/-! ### Taking a fault, and the commit -/

/-- Taking a fault (spec/60_exceptions.md R210): the status records it with `ip` and the word at `ip`, and nothing
else changes. There is no handler and no return from it (R213). -/
def State.raise (s : State) (t : Trap) : State :=
  { s with status := .faulted { kind := t.kind, ip := s.ip, word := s.read s.ip, detail := t.detail } }

/-- A new sparse entry for `a` fits in the sparse extension (spec/20_memory.md R60). -/
def State.roomFor (s : State) (a : Nat) : Bool :=
  match s.memCapacity with
  | none => true
  | some cap => decide (a < s.progLen) || decide (a ∈ s.ext) || decide (s.ext.length < cap)

/-- `MemWrite(a, 1, v)` (spec/20_memory.md R53), with the capacity check of R60. -/
def State.memWrite (s : State) (a : Nat) (v : Val) : Except Trap State :=
  if s.roomFor a then .ok (s.store a v) else .error ⟨.memoryExhausted, .address a⟩

/-- The state a step ends in (spec/40_execution_cycle.md R111, R117): all its writes, or none of them and the
fault. -/
def State.settle (s : State) (r : Except Trap State) : State :=
  match r with
  | .ok s' => s'
  | .error t => s.raise t

/-- The end of an instruction: every outcome of R110 is a next state. -/
def commit (s : State) (r : Except Trap State) : Host.Outcome State Fault Refusal := .next (s.settle r)

/-! ### Placing a program -/

/-- The cells from `ip` on take the values of a list and the engine is `Running`, as if they were part of the
program it was constructed from (spec/70_reset_and_hazards.md R250): the dense prefix reaches at least their end, and no
sparse entry lies below its end. -/
def State.placeCells (s : State) (cells : List Val) : State :=
  let n := max s.progLen (s.ip + cells.length)
  { s with
    mem := s.mem.writeList s.ip cells
    progLen := n
    ext := s.ext.filter fun a => decide (n ≤ a)
    status := .running }

end Sys2Proof.Machine
end

