-- ==== Sys2Proof/Syntax.lean ====
section
/-! DEFINITION. The ten instructions and their operand forms (spec/30_encoding.md R84, R86; spec/00_scope.md R9). -/

namespace Sys2Proof

/-- An operand as decode produces it (R9, R86): the mode and the raw operand. -/
inductive Operand where
  /-- mode digit 0, written `[raw]` (R11) -/
  | position (raw : Val)
  /-- mode digit 1, written `#raw` -/
  | immediate (raw : Val)
  /-- mode digit 2, written `rb[raw]` -/
  | relative (raw : Val)
  deriving DecidableEq, Repr

/-- The ten rows of the opcode map (R84), without operands. -/
inductive Opcode where
  | add
  | multiply
  | input
  | output
  | jumpIfTrue
  | jumpIfFalse
  | lessThan
  | equals
  | adjustRelativeBase
  | halt
  deriving DecidableEq, Repr

/-- A decoded instruction (R89): parameters in order, `a`, `b` sources and `d` the destination (R114). -/
inductive Instr where
  | add (a b d : Operand)
  | multiply (a b d : Operand)
  | input (d : Operand)
  | output (a : Operand)
  | jumpIfTrue (a b : Operand)
  | jumpIfFalse (a b : Operand)
  | lessThan (a b d : Operand)
  | equals (a b d : Operand)
  | adjustRelativeBase (a : Operand)
  | halt
  deriving DecidableEq, Repr

end Sys2Proof
end

