-- ==== Sys2Proof/Machine/Operands.lean ====
section
/-! DEFINITION. The range check of the arithmetic (spec/40_execution_cycle.md R120) and every operand form, as a source
(R115) and as a destination (R116). -/

namespace Sys2Proof.Machine

/-- `chk(n)` (R120): an exact integer as a `Val`, or ArithmeticOverflow; no wrap-around, no saturation (log 28). -/
def chk (n : Int) : Except Trap Val :=
  if InRange n then .ok (BitVec.ofInt 64 n) else .error ⟨.arithmeticOverflow, .nothing⟩

/-- `toAddr(v)` (spec/20_memory.md R56): a value as an address, or NegativeAddress (log 29). -/
def toAddr (v : Val) : Except Trap Nat :=
  if v.toInt < 0 then .error ⟨.negativeAddress, .value v⟩ else .ok v.toNat

/-- The address a Relative operand forms (spec/20_memory.md R54, R55): overflow is tested before the sign. -/
def State.relativeAddr (s : State) (raw : Val) : Except Trap Nat := do
  let v ← chk (s.rb.toInt + raw.toInt)
  toAddr v

/-- `src(p)` (R115), the source's `resolve` (spec/20_memory.md R54). -/
def State.src (s : State) : Operand → Except Trap Val
  | .position raw => do
    let a ← toAddr raw
    return s.read a
  | .immediate raw => .ok raw
  | .relative raw => do
    let a ← s.relativeAddr raw
    return s.read a

/-- `dst(p)` (R116), the source's `resolve_target` (spec/20_memory.md R55), for parameter `p`. -/
def State.dst (s : State) (p : Nat) : Operand → Except Trap Nat
  | .position raw => toAddr raw
  | .immediate _ => .error ⟨.invalidWriteTarget, .param p⟩
  | .relative raw => s.relativeAddr raw

end Sys2Proof.Machine
end

