-- ==== Sys2Proof/Machine/Arithmetic.lean ====
section
/-! DEFINITION. Add and Multiply (spec/41_arithmetic.md), and the shape they share with the comparisons. -/

namespace Sys2Proof.Machine

/-- The shape of a three-operand instruction (spec/40_execution_cycle.md R111): sources in order, then the
destination, then the operation, then the one write and the advance by 4. -/
def threeOperand (op : Val → Val → Except Trap Val) (a b d : Operand) (s : State) :
    Host.Outcome State Fault Refusal :=
  commit s do
    let x ← s.src a
    let y ← s.src b
    let k ← s.dst 3 d
    let r ← op x y
    let s' ← s.memWrite k r
    return s'.advance 4

/-- The exact sum, range-checked (R130). -/
def addOp (x y : Val) : Except Trap Val := chk (x.toInt + y.toInt)

/-- The exact product, range-checked (R131). -/
def multiplyOp (x y : Val) : Except Trap Val := chk (x.toInt * y.toInt)

/-- Add (R130). -/
def execAdd (a b d : Operand) (s : State) : Host.Outcome State Fault Refusal := threeOperand addOp a b d s

/-- Multiply (R131). -/
def execMultiply (a b d : Operand) (s : State) : Host.Outcome State Fault Refusal := threeOperand multiplyOp a b d s

end Sys2Proof.Machine
end

