-- ==== Sys2Proof/Machine/Flags.lean ====
section
/-! DEFINITION. The core has no flags (spec/10_state.md R25): a comparison writes this value to a cell, and a conditional
jump tests a value. -/

namespace Sys2Proof.Machine

/-- The result of a comparison: "exactly `1` or `0`" (spec/40_execution_cycle.md R121). -/
def truthVal (b : Bool) : Val := if b then 1 else 0

/-- `a < b`, the signed comparison (spec/44_compare.md R170). -/
def lessThanVal (a b : Val) : Val := truthVal (decide (a.toInt < b.toInt))

/-- `a == b` (spec/44_compare.md R171). -/
def equalsVal (a b : Val) : Val := truthVal (decide (a.toInt = b.toInt))

/-- `a != 0` (spec/43_jumps.md R160): any non-zero value is true, negative values included. -/
def isTrueVal (a : Val) : Bool := decide (a.toInt ≠ 0)

end Sys2Proof.Machine
end

