-- ==== Sys2Proof/Machine/Compare.lean ====
section
/-! DEFINITION. LessThan and Equals (spec/44_compare.md). -/

namespace Sys2Proof.Machine

/-- LessThan (R170): the comparison itself cannot fault. -/
def execLessThan (a b d : Operand) (s : State) : Host.Outcome State Fault Refusal :=
  threeOperand (fun x y => .ok (lessThanVal x y)) a b d s

/-- Equals (R171). -/
def execEquals (a b d : Operand) (s : State) : Host.Outcome State Fault Refusal :=
  threeOperand (fun x y => .ok (equalsVal x y)) a b d s

end Sys2Proof.Machine
end

