-- ==== Sys2Proof/Machine/Halt.lean ====
section
/-! DEFINITION. Halt (spec/46_halt.md R185). -/

namespace Sys2Proof.Machine

/-- Halt (R185): `ip` stays at the Halt word (log 10). -/
def execHalt (s : State) : Host.Outcome State Fault Refusal := .next s.halt

end Sys2Proof.Machine
end

