-- ==== Sys2Proof/Config.lean ====
section
/-! DEFINITION. What the spec leaves to the environment: the events of the Interactive terminal (spec/42_io.md R148).
The other parameters of the spec (spec/00_scope.md R7, spec/42_io.md R148): OPCODE_MAP is `Opcode.number` in Decode.lean,
and MEM_CAPACITY, ON_BAD_INPUT and ON_EOF are fields of `State`, given at construction. -/

namespace Sys2Proof

/-- What the terminal does at one attempt to read from it (R148). -/
inductive TerminalEvent where
  /-- a line that holds the value `v`: "a value chosen by the environment" -/
  | line (v : Val)
  /-- no line yet: the Input waits -/
  | waiting
  /-- a line that is not a number (the spec's ON_BAD_INPUT) -/
  | badLine
  /-- the input stream has ended (the spec's ON_EOF) -/
  | endOfFile
  deriving DecidableEq, Repr, Inhabited

/-- FREE VALUE (log 16): the event of a terminal, by its number, at the n-th attempt to read from it. It has no body, so
whatever is proved holds for every behaviour of every terminal, and nothing relates two terminals (log 36). -/
opaque Config.terminalEvent (terminal n : Nat) : TerminalEvent

end Sys2Proof
end

