-- ==== Sys2Proof/Machine/Transport.lean ====
section
/-! DEFINITION. The two ports and the transport behind them (spec/42_io.md R145 to R150). -/

namespace Sys2Proof.Machine

/-- What `recv()` answers (R145). -/
inductive Received where
  /-- a value, and the state with that value taken -/
  | value (v : Val) (s : State)
  /-- no value yet: the step is not complete -/
  | blocked (s : State)
  /-- no value can come any more -/
  | closed (t : Trap)
  deriving DecidableEq, Repr

/-- `inq <- rest` (R145). -/
def State.setInq (s : State) (rest : List Val) : State := { s with inq := rest }

/-- One free event of the terminal has been drawn (log 16). -/
def State.drawn (s : State) : State := { s with termDraws := s.termDraws + 1 }

/-- The line the terminal gave answers the prompt that was shown (R148, log 18). -/
def State.answered (s : State) : State := { s with prompted := false, termDraws := s.termDraws + 1 }

/-- An Interactive Input prompts before it reads (R148), once however long it waits (log 18). -/
def State.showPrompt (s : State) : State :=
  match s.tmode with
  | .channel => s
  | .interactive => if s.prompted then s else { s with prompts := s.prompts ++ [s.outq.length], prompted := true }

/-- `recv()` on a channel (R145): queued values are delivered before closure is reported (log 33). -/
def State.recvChannel (s : State) : Received :=
  match s.inq with
  | v :: rest => .value v (s.setInq rest)
  | [] => if s.inOpen then .blocked s else .closed ⟨.channelClosed, .nothing⟩

/-- The free input of the next attempt to read from the engine's terminal (R148, log 16). -/
def State.nextEvent (s : State) : TerminalEvent := Config.terminalEvent s.terminal s.termDraws

/-- What an event of the terminal gives an Input (R148): a bad line and the end of the input do what the parameters
ON_BAD_INPUT and ON_EOF say (log 17). -/
def State.reply (s : State) (e : TerminalEvent) : TerminalReply :=
  match e with
  | .line v => .value v
  | .waiting => .retry
  | .badLine => s.onBadInput
  | .endOfFile => s.onEndOfFile

/-- `recv()` on the terminal (R148), for the free input `e` of the step. -/
def State.recvTerminal (s : State) (e : TerminalEvent) : Received :=
  match s.reply e with
  | .value v => .value v s.answered
  | .retry => .blocked s.drawn
  | .fault t => .closed t

/-- `recv()`: the binding of the input port by the transport's mode (R147, R148). The spec does not say which terminal
several Interactive engines use; DESIGN CHOICE (log 36): each reads from the terminal its own number names. -/
def State.recv (s : State) : Received :=
  match s.tmode with
  | .channel => s.recvChannel
  | .interactive => s.recvTerminal s.nextEvent

/-- `send(v)` (R146): "never blocks, never faults" in either mode (log 14, log 19). -/
def State.send (s : State) (v : Val) : State := { s with outq := s.outq ++ [v] }

end Sys2Proof.Machine
end

