-- ==== Sys2Proof/Machine/InOut.lean ====
section
/-! DEFINITION. Input and Output (spec/42_io.md R140, R141). -/

namespace Sys2Proof.Machine

/-- What an Input does once its destination `k` is known (R140): a received value is stored and the instruction
completes in one transition; while there is none the step is not complete (log 23). `s` is the state with the prompt
shown; a fault takes no value (spec/60_exceptions.md R211). -/
def State.inputTo (s : State) (k : Nat) : State :=
  match s.recv with
  | .value v s' => s.settle do
    let s'' ← s'.memWrite k v
    return s''.advance 2
  | .blocked s' => s'
  | .closed t => s.raise t

/-- Input (R140): the destination is checked before anything is received (log 13). -/
def execInput (d : Operand) (s : State) : Host.Outcome State Fault Refusal :=
  .next <|
    match s.dst 1 d with
    | .ok k => s.showPrompt.inputTo k
    | .error t => s.raise t

/-- Output (R141): no fault comes from the send. -/
def execOutput (a : Operand) (s : State) : Host.Outcome State Fault Refusal :=
  commit s do
    let x ← s.src a
    return (s.send x).advance 2

end Sys2Proof.Machine
end

