-- ==== Sys2Proof/Machine/Jumps.lean ====
section
/-! DEFINITION. JumpIfTrue and JumpIfFalse (spec/43_jumps.md R160 to R163). -/

namespace Sys2Proof.Machine

/-- The shape of a conditional jump: both operands are resolved and the target is converted whether or not the jump
is taken (R162, R163, log 8); a taken jump adds nothing to the target (R118). -/
def jumpWhen (cond : Val → Bool) (a b : Operand) (s : State) : Host.Outcome State Fault Refusal :=
  commit s do
    let x ← s.src a
    let y ← s.src b
    let t ← toAddr y
    return if cond x then s.jump t else s.advance 3

/-- JumpIfTrue (R160). -/
def execJumpIfTrue (a b : Operand) (s : State) : Host.Outcome State Fault Refusal := jumpWhen isTrueVal a b s

/-- JumpIfFalse (R161). -/
def execJumpIfFalse (a b : Operand) (s : State) : Host.Outcome State Fault Refusal :=
  jumpWhen (fun x => !isTrueVal x) a b s

end Sys2Proof.Machine
end

