-- ==== Sys2Proof/Machine/RelativeBase.lean ====
section
/-! DEFINITION. AdjustRelativeBase (spec/45_relative_base.md R180). -/

namespace Sys2Proof.Machine

/-- AdjustRelativeBase (R180): the operand uses the old `rb`; the exact sum is range-checked. -/
def execAdjustRelativeBase (a : Operand) (s : State) : Host.Outcome State Fault Refusal :=
  commit s do
    let x ← s.src a
    let r ← chk (s.rb.toInt + x.toInt)
    return (s.setRb r).advance 2

end Sys2Proof.Machine
end

