-- ==== Sys2Proof/Machine/Dispatch.lean ====
section
/-! DEFINITION. The meaning of every instruction (spec/30_encoding.md R84), one arm per constructor. -/

namespace Sys2Proof.Machine

/-- One instruction of a running engine whose `ip` is at it (spec/40_execution_cycle.md R110, R111). -/
def exec (i : Instr) (s : State) : Host.Outcome State Fault Refusal :=
  match i with
  | .add a b d => Sys2Proof.Machine.execAdd a b d s
  | .multiply a b d => Sys2Proof.Machine.execMultiply a b d s
  | .input d => Sys2Proof.Machine.execInput d s
  | .output a => Sys2Proof.Machine.execOutput a s
  | .jumpIfTrue a b => Sys2Proof.Machine.execJumpIfTrue a b s
  | .jumpIfFalse a b => Sys2Proof.Machine.execJumpIfFalse a b s
  | .lessThan a b d => Sys2Proof.Machine.execLessThan a b d s
  | .equals a b d => Sys2Proof.Machine.execEquals a b d s
  | .adjustRelativeBase a => Sys2Proof.Machine.execAdjustRelativeBase a s
  | .halt => Sys2Proof.Machine.execHalt s

end Sys2Proof.Machine
end

