-- ==== Sys2Proof/WellFormed.lean ====
section
/-! DEFINITION. Well-formed instructions: a destination is never Immediate (spec/30_encoding.md R92). An ill-formed
instruction still decodes and still has a meaning, the fault InvalidWriteTarget (spec/60_exceptions.md R203). -/

namespace Sys2Proof

/-- "Write-targets only support Position and Relative" (spec/20_memory.md R55). -/
def Operand.isWriteTarget : Operand → Bool
  | .position _ => true
  | .immediate _ => false
  | .relative _ => true

/-- The destination "must never decode as Immediate in a well-formed program" (R92). -/
def Instr.wellFormed : Instr → Bool
  | .add _ _ d => d.isWriteTarget
  | .multiply _ _ d => d.isWriteTarget
  | .input d => d.isWriteTarget
  | .output _ => true
  | .jumpIfTrue _ _ => true
  | .jumpIfFalse _ _ => true
  | .lessThan _ _ d => d.isWriteTarget
  | .equals _ _ d => d.isWriteTarget
  | .adjustRelativeBase _ => true
  | .halt => true

end Sys2Proof
end

