-- ==== Sys2Proof/Decode.lean ====
section
/-! DEFINITION. The decimal encoding: the decoder of spec/30_encoding.md R80 to R92, total on any cells and rejecting
by name, and the encoder written from the same tables. -/

namespace Sys2Proof

/-- OPCODE_MAP (R84): 1, 2 and 99 are derived from the source's vectors, 3 to 9 are the spec's assignment (log 4). -/
def Opcode.number : Opcode → Nat
  | .add => 1
  | .multiply => 2
  | .input => 3
  | .output => 4
  | .jumpIfTrue => 5
  | .jumpIfFalse => 6
  | .lessThan => 7
  | .equals => 8
  | .adjustRelativeBase => 9
  | .halt => 99

/-- The number of operands (R84). -/
def Opcode.arity : Opcode → Nat
  | .add => 3
  | .multiply => 3
  | .input => 1
  | .output => 1
  | .jumpIfTrue => 2
  | .jumpIfFalse => 2
  | .lessThan => 3
  | .equals => 3
  | .adjustRelativeBase => 1
  | .halt => 0

/-- The size in cells, `1 + arity` (R81). -/
def Opcode.size (op : Opcode) : Nat := 1 + op.arity

/-- The rows of R84 in the table's order. -/
def Opcode.all : List Opcode :=
  [.add, .multiply, .input, .output, .jumpIfTrue, .jumpIfFalse, .lessThan, .equals, .adjustRelativeBase, .halt]

/-- The opcode whose number is `n`, if there is one: any other number is illegal (R85, R90). -/
def opcodeOf (n : Nat) : Option Opcode := Opcode.all.find? fun op => op.number == n

/-- The mode digit of parameter `p` of a non-negative word (R80): `(w div 10^(p+1)) mod 10`. -/
def modeDigit (w p : Nat) : Nat := w / 10 ^ (p + 1) % 10

/-- The two decode failures (R89), each with the detail of spec/60_exceptions.md R200. -/
inductive DecodeFault where
  /-- the word is negative or its two low digits are no opcode (R83, R90) -/
  | unknownOpcode (w : Val)
  /-- the mode digit of parameter `p` is 3 to 9 (R91) -/
  | invalidAddressingMode (p digit : Nat)
  deriving DecidableEq, Repr

/-- The operand that a mode digit makes of a raw operand (R86), for parameter `p`. -/
def operandOf (p digit : Nat) (raw : Val) : Except DecodeFault Operand :=
  match digit with
  | 0 => .ok (.position raw)
  | 1 => .ok (.immediate raw)
  | 2 => .ok (.relative raw)
  | _ => .error (.invalidAddressingMode p digit)

/-- Parameter `p` of word `w` with raw operand `raw` (R89, the body of its loop). -/
def decodeParam (w p : Nat) (raw : Val) : Except DecodeFault Operand := operandOf p (modeDigit w p) raw

/-- Format F1 (R82): one parameter. -/
def decodeF1 (f : Operand → Instr) (w : Nat) (c1 : Val) : Except DecodeFault Instr := do
  let o1 ← decodeParam w 1 c1
  return f o1

/-- Format F2 (R82): two parameters, the lower one checked first (R91). -/
def decodeF2 (f : Operand → Operand → Instr) (w : Nat) (c1 c2 : Val) : Except DecodeFault Instr := do
  let o1 ← decodeParam w 1 c1
  let o2 ← decodeParam w 2 c2
  return f o1 o2

/-- Format F3 (R82): three parameters, the lowest checked first (R91). -/
def decodeF3 (f : Operand → Operand → Operand → Instr) (w : Nat) (c1 c2 c3 : Val) : Except DecodeFault Instr := do
  let o1 ← decodeParam w 1 c1
  let o2 ← decodeParam w 2 c2
  let o3 ← decodeParam w 3 c3
  return f o1 o2 o3

/-- The parameters of an instruction whose opcode is known; digits above the arity are not read (R88, log 6). -/
def decodeOperands (op : Opcode) (w : Nat) (c1 c2 c3 : Val) : Except DecodeFault Instr :=
  match op with
  | .add => decodeF3 .add w c1 c2 c3
  | .multiply => decodeF3 .multiply w c1 c2 c3
  | .input => decodeF1 .input w c1
  | .output => decodeF1 .output w c1
  | .jumpIfTrue => decodeF2 .jumpIfTrue w c1 c2
  | .jumpIfFalse => decodeF2 .jumpIfFalse w c1 c2
  | .lessThan => decodeF3 .lessThan w c1 c2 c3
  | .equals => decodeF3 .equals w c1 c2 c3
  | .adjustRelativeBase => decodeF1 .adjustRelativeBase w c1
  | .halt => .ok .halt

/-- The decode function of R89 on the word and the three cells after it: the instruction and its size in cells. A
negative word is illegal whatever its digits (R83, log 5); the opcode is checked before the modes. -/
def decodeCells (w c1 c2 c3 : Val) : Except DecodeFault (Instr × Nat) :=
  if w.toInt < 0 then .error (.unknownOpcode w)
  else
    match opcodeOf (w.toNat % 100) with
    | none => .error (.unknownOpcode w)
    | some op => do
      let i ← decodeOperands op w.toNat c1 c2 c3
      return (i, op.size)

/-- Decode of a list of cells; a cell the list does not reach is a never-written cell, 0 (spec/20_memory.md R52). -/
def decodeList (cells : List Val) : Except DecodeFault (Instr × Nat) :=
  decodeCells (cells.getD 0 0) (cells.getD 1 0) (cells.getD 2 0) (cells.getD 3 0)

/-! The encoder. -/

/-- The row of R84 an instruction belongs to. -/
def Instr.opcode : Instr → Opcode
  | .add _ _ _ => .add
  | .multiply _ _ _ => .multiply
  | .input _ => .input
  | .output _ => .output
  | .jumpIfTrue _ _ => .jumpIfTrue
  | .jumpIfFalse _ _ => .jumpIfFalse
  | .lessThan _ _ _ => .lessThan
  | .equals _ _ _ => .equals
  | .adjustRelativeBase _ => .adjustRelativeBase
  | .halt => .halt

/-- The parameters in order (R114). -/
def Instr.operands : Instr → List Operand
  | .add a b d => [a, b, d]
  | .multiply a b d => [a, b, d]
  | .input d => [d]
  | .output a => [a]
  | .jumpIfTrue a b => [a, b]
  | .jumpIfFalse a b => [a, b]
  | .lessThan a b d => [a, b, d]
  | .equals a b d => [a, b, d]
  | .adjustRelativeBase a => [a]
  | .halt => []

/-- The mode digit of an operand form (R86). -/
def Operand.mode : Operand → Nat
  | .position _ => 0
  | .immediate _ => 1
  | .relative _ => 2

/-- The operand cell of an operand (R87). -/
def Operand.raw : Operand → Val
  | .position r => r
  | .immediate r => r
  | .relative r => r

/-- The mode digits of the parameters from `p` on, each at its decimal place `10^(p+1)` (R80). -/
def modesNumber (p : Nat) : List Operand → Nat
  | [] => 0
  | o :: os => o.mode * 10 ^ (p + 1) + modesNumber (p + 1) os

/-- The canonical instruction word (R82, R94): opcode digits, mode digits, nothing above. -/
def Instr.word (i : Instr) : Val := BitVec.ofNat 64 (i.opcode.number + modesNumber 1 i.operands)

/-- The number of cells of an instruction (R81). -/
def Instr.size (i : Instr) : Nat := i.opcode.size

/-- The cells of an instruction: its canonical word, then one cell per raw operand (R80). -/
def encode (i : Instr) : List Val := i.word :: i.operands.map Operand.raw

/-! The host's numbering of an instruction's bits. -/

/-- The `k`-th cell of an instruction whose bits are `w`: a word of this hardware is one 64-bit cell, the first cell
holds the bits from 0 on, and there are no bits at or above `nbits`. -/
def tableCell (nbits w k : Nat) : Val := BitVec.ofNat 64 (w % 2 ^ nbits / 2 ^ (64 * k))

/-- The four cells (the longest instruction, R81) of an instruction whose bits are `w`. -/
def tableCells (nbits w : Nat) : List Val :=
  [tableCell nbits w 0, tableCell nbits w 1, tableCell nbits w 2, tableCell nbits w 3]

/-- The instruction the decoder reads from the bits `w` of a row of the opcode table. -/
def decodeTableWord (nbits w : Nat) : Option Instr :=
  match decodeList (tableCells nbits w) with
  | .ok r => some r.1
  | .error _ => none

end Sys2Proof
end

