-- ==== Sys2Proof/Machine/Fetch.lean ====
section
/-! DEFINITION. Fetching and decoding the instruction at `ip` (spec/40_execution_cycle.md R112, R113), and placing one
there. -/

namespace Sys2Proof.Machine

/-- `decode(mem, ip)` (spec/30_encoding.md R89): the word and the operand cells are ordinary memory reads (R112). The
cells after the word are read whatever the arity, since a read has no effect. -/
def State.decodeAt (s : State) (ip : Nat) : Except DecodeFault (Instr × Nat) :=
  decodeCells (s.read ip) (s.read (ip + 1)) (s.read (ip + 2)) (s.read (ip + 3))

/-- The fault a decode failure raises (spec/60_exceptions.md R201, R202), with its detail (R200). -/
def decodeTrap : DecodeFault → Trap
  | .unknownOpcode w => ⟨.unknownOpcode, .word w⟩
  | .invalidAddressingMode p digit => ⟨.invalidAddressingMode, .mode p digit⟩

/-- What a step request finds at its start. -/
inductive Fetched where
  /-- the engine is Halted or Faulted: no instruction is executed (spec/60_exceptions.md R240) -/
  | stopped
  /-- `ip` is no address (log 3) -/
  | outside
  /-- decode fails (R89) -/
  | trap (t : Trap)
  /-- the instruction at `ip` -/
  | instr (i : Instr)
  deriving DecidableEq, Repr

/-- Phase F of a step (R111): only a Running engine fetches. -/
def State.fetch (s : State) : Fetched :=
  match s.status with
  | .running =>
    if addressSpace ≤ s.ip then .outside
    else
      match s.decodeAt s.ip with
      | .ok r => .instr r.1
      | .error f => .trap (decodeTrap f)
  | .halted => .stopped
  | .faulted _ => .stopped

/-- The instruction with the bits `w` stored where the next step fetches (log 22). -/
def State.placeTableWord (s : State) (nbits w : Nat) : State := s.placeCells (tableCells nbits w)

end Sys2Proof.Machine
end

