-- ==== Sys2Proof/Machine/Step.lean ====
section
/-! DEFINITION. One step request (spec/60_exceptions.md R240) of one engine: the step of
spec/40_execution_cycle.md R110 when the engine is Running. -/

namespace Sys2Proof.Machine

/-- The step request: `started <- true`; a Halted or Faulted engine does nothing more (R240, log 11); a Running one
decodes the instruction at `ip` and executes it, or takes the decode fault. -/
def step (s : State) : Host.Outcome State Fault Refusal :=
  match s.start.fetch with
  | .stopped => .next s.start
  | .outside => .fault (.ipOutsideAddressSpace s.ip)
  | .trap t => .next (s.start.raise t)
  | .instr i => exec i s.start

/-- The state with the instruction whose bits are `w` placed where `step` fetches next (log 22). -/
def State.withFetchWord (s : State) (nbits w : Nat) : State := s.placeTableWord nbits w

end Sys2Proof.Machine
end

