-- ==== Sys2Proof/Machine/HostRequests.lean ====
section
/-! DEFINITION. The host's requests to one engine (spec/60_exceptions.md R240 to R247; spec/70_reset_and_hazards.md
R250) and the numbers a build puts on wires. -/

namespace Sys2Proof.Machine

/-! ### Construct -/

/-- Construction from a program (R250), with the spec's other parameters as an argument. The spec's bound `N ≤ 2^63` is
a premise of the claims that need it (log 31). -/
def State.construct (prog : List Val) (setup : Setup := {}) : State :=
  { State.reset with
    mem := Memory.writeList [] 0 prog
    progLen := prog.length
    memCapacity := setup.memCapacity
    terminal := setup.terminal
    onBadInput := setup.onBadInput
    onEndOfFile := setup.onEndOfFile }

/-! ### Attach -/

/-- The effect of the first attach (R241): the Channel transport, an empty open input queue, an empty output queue. -/
def State.toChannel (s : State) : State :=
  { s with claimed := true, tmode := .channel, inq := [], inOpen := true, outq := [] }

/-- The attach request (R241): a second one raises DoubleTransportClaim (R207), one after the first step request is
refused (R242). DESIGN CHOICE (log 21): of the claimed engines that have started, R241 (raise) is taken for a Running
one and R242 (refuse) for a stopped one, whose status is terminal (spec/10_state.md R27). -/
def State.attach (s : State) : Host.Outcome State Fault Refusal :=
  if s.claimed && (s.isRunning || !s.started) then .next (s.raise ⟨.doubleTransportClaim, .nothing⟩)
  else if s.started then .refused .attachAfterStart
  else .next s.toChannel

/-! ### Step and run -/

/-- The step request with its answer, "whether the engine is still running" (R240). DESIGN CHOICE (log 23): an attempt in
which an Input still waits, where R240 lets the request block, is answered at once, with true. -/
def State.hostStep (s : State) : Host.Outcome (State × Bool) Fault Refusal :=
  match step s with
  | .next t => .next (t, t.isRunning)
  | .fault r => .fault r
  | .refused r => .refused r

/-- What a run request answers (R244, spec/46_halt.md R186). -/
inductive RunResult where
  /-- ended successfully -/
  | success (s : State)
  /-- ended in failure, with the error description -/
  | failure (record : FaultRecord) (s : State)
  /-- not ended after the steps that were granted -/
  | notEnded (s : State)
  deriving DecidableEq, Repr

/-- The answer a state stands for. -/
def State.runResult (s : State) : RunResult :=
  match s.status with
  | .running => .notEnded s
  | .halted => .success s
  | .faulted r => .failure r s

/-- The run request (R244) cut off after `fuel` step requests: R240 repeated until it answers false. An attempt in which an
Input waits counts as one of them (log 23). -/
def State.hostRun : Nat → State → Host.Outcome RunResult Fault Refusal
  | 0, s => .next s.runResult
  | fuel + 1, s =>
    match step s with
    | .next t => if t.isRunning then State.hostRun fuel t else .next t.runResult
    | .fault r => .fault r
    | .refused r => .refused r

/-! ### Inspect -/

/-- "Inspect memory" (R243): exactly the dense prefix. -/
def State.inspectMemory (s : State) : List Val := (List.range s.progLen).map s.read

/-- "Inspect a single address" (R243). -/
def State.getValueAt (s : State) (a : Nat) : Val := s.read a

/-! ### The endpoints of one engine -/

/-- A value arrives on the input queue (spec/42_io.md R145, R147). -/
def State.enqueue (s : State) (vs : List Val) : State := { s with inq := s.inq ++ vs }

/-- `in_open` (spec/42_io.md R145). -/
def State.setInOpen (s : State) (b : Bool) : State := { s with inOpen := b }

/-- `outq <- vs`. -/
def State.setOutq (s : State) (vs : List Val) : State := { s with outq := vs }

/-- The host sends a value on the sender it holds (R246): it holds one from the attach until it drops it. -/
def State.hostSend (s : State) (v : Val) : Host.Outcome State Fault Refusal :=
  if s.claimed && s.inOpen then .next (s.enqueue [v]) else .refused .endpointNotHeld

/-- The host drops its sender (spec/42_io.md R147). -/
def State.closeSender (s : State) : Host.Outcome State Fault Refusal :=
  if s.claimed && s.inOpen then .next (s.setInOpen false) else .refused .endpointNotHeld

/-- What the host gets from the receiver it holds. -/
inductive Drained (σ : Type) where
  /-- the oldest value, and the rest -/
  | value (v : Val) (s : σ)
  /-- no value yet -/
  | empty
  /-- no value will come: the producer is gone (R206) -/
  | endOfStream
  deriving DecidableEq, Repr

/-- The host receives from the output queue (R246), oldest value first. -/
def State.drain (s : State) : Host.Outcome (Drained State) Fault Refusal :=
  if s.claimed then
    match s.outq with
    | v :: rest => .next (.value v (s.setOutq rest))
    | [] => .next .empty
  else .refused .endpointNotHeld

/-- One item of the stream an Interactive terminal shows (spec/42_io.md R148). -/
inductive ScreenItem where
  | prompt
  | value (v : Val)
  deriving DecidableEq, Repr

/-- The stream from output `k` on: prompts stand before the value with the number they recorded. -/
def screenFrom : Nat → List Nat → List Val → List ScreenItem
  | k, prompts, [] => (prompts.filter fun p => decide (k ≤ p)).map fun _ => .prompt
  | k, prompts, v :: vs =>
    ((prompts.filter fun p => p == k).map fun _ => .prompt) ++ .value v :: screenFrom (k + 1) prompts vs

/-- The stream an Interactive terminal shows: prompts and outputs in program order (spec/42_io.md R148, log 18).
DESIGN CHOICE (log 36): each engine has a stream of its own. -/
def State.screen (s : State) : List ScreenItem := screenFrom 0 s.prompts s.outq

/-! ### Numbers on wires (R200, R209, R247; spec/92_eei_decisions.md D19, D21; log 26, log 30) -/

/-- The code of a fault kind (R200); 0 means "no fault". -/
def FaultKind.code : FaultKind → Nat
  | .unknownOpcode => 1
  | .invalidAddressingMode => 2
  | .invalidWriteTarget => 3
  | .negativeAddress => 4
  | .arithmeticOverflow => 5
  | .channelClosed => 6
  | .doubleTransportClaim => 7
  | .memoryExhausted => 8

/-- The source's taxonomy (R200, R209). -/
inductive SourceClass where
  | malformedProgram
  | invalidWriteTarget
  | channelClosed
  | doubleTransportClaim
  deriving DecidableEq, Repr

/-- The source's class of a kind, where it has one (R200, R209). -/
def FaultKind.sourceClass : FaultKind → Option SourceClass
  | .unknownOpcode => some .malformedProgram
  | .invalidAddressingMode => some .malformedProgram
  | .invalidWriteTarget => some .invalidWriteTarget
  | .negativeAddress => none
  | .arithmeticOverflow => none
  | .channelClosed => some .channelClosed
  | .doubleTransportClaim => some .doubleTransportClaim
  | .memoryExhausted => none

/-- The status outputs of D19: `running`, `halted`, `faulted`, `fault_code`, `fault_ip`, `fault_word`. -/
structure StatusPins where
  running : Bool
  halted : Bool
  faulted : Bool
  faultCode : BitVec 4
  /-- DESIGN CHOICE (log 37): `none` while the engine is not faulted, since D19 then gives a value to `fault_code` alone -/
  faultIp : Option (BitVec 64)
  /-- DESIGN CHOICE (log 37): as `faultIp` -/
  faultWord : Option (BitVec 64)
  deriving DecidableEq, Repr

/-- The status outputs of an engine (D19): the one-hot image of the status and the fault record. -/
def State.statusPins (s : State) : StatusPins :=
  match s.status with
  | .running => ⟨true, false, false, 0, none, none⟩
  | .halted => ⟨false, true, false, 0, none, none⟩
  | .faulted r => ⟨false, false, true, BitVec.ofNat 4 r.kind.code, some (BitVec.ofNat 64 r.ip), some r.word⟩

/-- The port inputs of D19, as the environment of an engine drives them. -/
structure InputPins where
  /-- `in_valid`: a value is available -/
  inValid : Bool
  /-- `in_data`, which has a meaning while `in_valid` is high -/
  inData : Option Val
  /-- `in_closed`: no sender remains, meaningful when `in_valid` is low -/
  inClosed : Bool
  deriving DecidableEq, Repr

/-- The port inputs before a step (D19): the head of the input queue, or what the terminal's next event gives an Input.
DESIGN CHOICE (log 26): a terminal that makes the Input fault drives `in_closed`. -/
def State.inputPins (s : State) : InputPins :=
  match s.tmode with
  | .channel => ⟨!s.inq.isEmpty, s.inq.head?, !s.inOpen⟩
  | .interactive =>
    match s.reply s.nextEvent with
    | .value v => ⟨true, some v, false⟩
    | .retry => ⟨false, none, false⟩
    | .fault _ => ⟨false, none, true⟩

/-- The next attempt to step will block (spec/40_execution_cycle.md R110, spec/10_state.md R33 (b)): the instruction at
`ip` is an Input with a valid destination, and its receive has no value yet. -/
def State.stepBlocks (s : State) : Bool :=
  match s.fetch with
  | .instr (.input d) =>
    match s.dst 1 d with
    | .ok _ =>
      match s.recv with
      | .value _ _ => false
      | .blocked _ => true
      | .closed _ => false
    | .error _ => false
  | _ => false

/-- An engine behind the pins of D19, and whether a step of it is in progress. -/
structure Clocked where
  engine : State
  /-- MODEL'S OWN: a step has started and not completed, that is, a blocked Input holds (log 26) -/
  inProgress : Bool
  deriving DecidableEq, Repr

/-- `step_en` (D19): "a step may start in a cycle where it is high and no step is in progress". A step in progress, which
is a blocked Input, goes on whatever `step_en` is. Each call attempts one step (log 26). -/
def Clocked.cycle (stepEn : Bool) (c : Clocked) : Host.Outcome Clocked Fault Refusal :=
  if stepEn || c.inProgress then
    match step c.engine with
    | .next t => .next ⟨t, c.engine.stepBlocks⟩
    | .fault r => .fault r
    | .refused r => .refused r
  else .next c

/-- The port outputs of D19 for one step. -/
structure PortPins where
  /-- `in_ready`: an Input took `in_data` in the step -/
  inReady : Bool
  /-- `out_valid` and `out_data`: the value the step sent -/
  outData : Option Val
  deriving DecidableEq, Repr

/-- The step from `s` to `t` took a reply of the terminal: an event was drawn and its Input no longer waits. -/
def tookReply (s t : State) : Bool := decide (s.termDraws < t.termDraws) && !t.prompted

/-- The port outputs of the step from `s` to `t` (D19), on either transport. -/
def portPins (s t : State) : PortPins :=
  ⟨decide (t.inq.length < s.inq.length) || tookReply s t, (t.outq.drop s.outq.length).head?⟩

/-- The length of the dense prefix after a program load: the highest address loaded plus one (D19). -/
def loadedLength : List (Nat × Val) → Nat
  | [] => 0
  | c :: loads => max (c.1 + 1) (loadedLength loads)

/-- Memory after a program load, the loads in order (D19). -/
def loadedMemory : Memory → List (Nat × Val) → Memory
  | m, [] => m
  | m, c :: loads => loadedMemory (m.write c.1 c.2) loads

/-- The state on release of `rst` (D19): the loaded program, and the attach request as the sampled `chan_mode`.
DESIGN CHOICE (log 38): a cell below `N` that no load wrote reads 0. -/
def State.fromLoadPort (loads : List (Nat × Val)) (chanMode : Bool) (setup : Setup := {}) : State :=
  let s := { State.construct [] setup with mem := loadedMemory [] loads, progLen := loadedLength loads }
  if chanMode then s.toChannel else s

/-- The engine behind the pins on release of `rst` (D19): no step is in progress. -/
def Clocked.release (loads : List (Nat × Val)) (chanMode : Bool) (setup : Setup := {}) : Clocked :=
  ⟨State.fromLoadPort loads chanMode setup, false⟩

end Sys2Proof.Machine
end

