-- ==== Sys2Proof/Machine/System.lean ====
section
/-! DEFINITION. Several engines wired output to input (spec/60_exceptions.md R230 to R236, R245). Each engine owns its
state; a queue between two engines is held once, as the consumer's `inq` (R231, log 24). Who steps next is the caller's
choice: every list of choices is a schedule (R234, log 25). -/

namespace Sys2Proof.Machine

/-- One engine of a system, and whether the host has dropped it (R245). -/
structure Slot where
  engine : State
  dropped : Bool
  deriving DecidableEq, Repr

/-- One wire (R231): the output queue of `producer` is the input queue of `consumer`. -/
structure Link where
  producer : Nat
  consumer : Nat
  deriving DecidableEq, Repr

/-- A system of engines. -/
structure System where
  /-- the engines, by number; no program can see the number (R230) -/
  slots : List Slot
  /-- WIRING (spec/00_scope.md R7) -/
  links : List Link
  /-- the engines for whose input queue the host holds a sender (R231) -/
  hostSenders : List Nat
  /-- MODEL'S OWN: the terminal number the next engine gets (log 36) -/
  nextTerminal : Nat
  deriving DecidableEq, Repr

/-- One more engine constructed from its program, not wired (R235); with a drop before it, the way to run a program again
(spec/70_reset_and_hazards.md R251). DESIGN CHOICE (log 36): it gets a terminal no other engine of the system has had. -/
def System.addEngine (sys : System) (prog : List Val) (setup : Setup := {}) : System :=
  { sys with
    slots := sys.slots ++ [⟨State.construct prog { setup with terminal := sys.nextTerminal }, false⟩]
    nextTerminal := sys.nextTerminal + 1 }

/-- A system of no engine, whose terminals are numbered from `firstTerminal` on. -/
def System.empty (firstTerminal : Nat) : System :=
  { slots := [], links := [], hostSenders := [], nextTerminal := firstTerminal }

/-- Engines constructed from their programs, not wired (R235). The spec does not say which terminal several Interactive
engines use; DESIGN CHOICE (log 36): each has its own, and another system's are others if numbered from elsewhere. -/
def System.construct (progs : List (List Val)) (firstTerminal : Nat := 0) : System :=
  progs.foldl (fun sys p => sys.addEngine p) (System.empty firstTerminal)

/-- The state of engine `k` replaced by a function of it. -/
def System.modifyEngine (sys : System) (k : Nat) (f : State → State) : System :=
  { sys with slots := sys.slots.modify k fun sl => { sl with engine := f sl.engine } }

/-- Engine `k` exists and is not dropped. -/
def System.alive (sys : System) (k : Nat) : Bool :=
  match sys.slots[k]? with
  | some sl => !sl.dropped
  | none => false

/-- Who receives what engine `k` outputs. -/
def System.consumerOf (sys : System) (k : Nat) : Option Nat :=
  (sys.links.find? fun l => l.producer == k).map Link.consumer

/-- A sender of the input queue of engine `c` exists: the host's, or a wired engine's that is not dropped (R245). -/
def System.senderExists (sys : System) (c : Nat) : Bool :=
  sys.hostSenders.contains c || sys.links.any fun l => l.consumer == c && sys.alive l.producer

/-- `in_open` of engine `c` after its senders may have changed. -/
def System.refreshOpen (sys : System) (c : Nat) : System :=
  sys.modifyEngine c fun e => e.setInOpen (sys.senderExists c)

/-- What engine `k` has sent stands in the queue of its consumer (R231). -/
def System.deliver (sys : System) (k : Nat) : System :=
  match sys.consumerOf k, sys.slots[k]? with
  | some c, some sl => (sys.modifyEngine k fun e => e.setOutq []).modifyEngine c fun e => e.enqueue sl.engine.outq
  | _, _ => sys

/-- One request to engine `k`, answered by a function of its state. -/
def System.request (sys : System) (k : Nat) (f : State → Host.Outcome State Fault Refusal) :
    Host.Outcome System Fault Refusal :=
  match sys.slots[k]? with
  | none => .refused .noSuchEngine
  | some sl =>
    if sl.dropped then .refused .engineDropped
    else
      match f sl.engine with
      | .next e => .next (sys.modifyEngine k fun _ => e)
      | .fault r => .fault r
      | .refused r => .refused r

/-- A step of engine `k` (R234): its own step, and what it sent is in the queue of its consumer. -/
def System.stepEngine (sys : System) (k : Nat) : Host.Outcome System Fault Refusal :=
  match sys.request k step with
  | .next sys' => .next (sys'.deliver k)
  | .fault r => .fault r
  | .refused r => .refused r

/-- A schedule: the engines that are asked to step, in order. -/
def System.runSchedule : List Nat → System → Host.Outcome System Fault Refusal
  | [], sys => .next sys
  | k :: ks, sys =>
    match sys.stepEngine k with
    | .next sys' => System.runSchedule ks sys'
    | .fault r => .fault r
    | .refused r => .refused r

/-- Engine `k` has its channel endpoints claimed. -/
def System.claimed (sys : System) (k : Nat) : Bool :=
  match sys.slots[k]? with
  | some sl => sl.engine.claimed
  | none => false

/-- The attach request to engine `k` (R241): the first one hands the host the sender of its input queue. DESIGN CHOICE
(log 39): it is accepted although another engine has started, since R241 tests the engine's own `started` alone, while
R252 has all claiming done before any engine runs. -/
def System.attach (sys : System) (k : Nat) : Host.Outcome System Fault Refusal :=
  match sys.request k State.attach with
  | .next sys' => .next { sys' with hostSenders := if sys.claimed k then sys'.hostSenders else k :: sys'.hostSenders }
  | .fault r => .fault r
  | .refused r => .refused r

/-- Some engine has been asked to step (R235, R252). DESIGN CHOICE (log 39): a dropped engine, whose existence has ended
(R215), no longer counts, so engines dropped and constructed again (R251) can be wired again. -/
def System.anyStarted (sys : System) : Bool := sys.slots.any fun sl => !sl.dropped && sl.engine.started

/-- The output queue of `p` becomes the input queue of `c` (R231), before any engine starts (R235, R252). An endpoint has
one owner (R232): `p` is not wired yet, and no other engine sends to `c`. DESIGN CHOICE (log 39): that the host has dropped
its own sender to `c` does not matter, and the queue, closed then, is open again with `p` as its sender; and a producer that
was dropped owns the queue of `c` no more, so another engine may be wired to `c`. -/
def System.wire (sys : System) (p c : Nat) : Host.Outcome System Fault Refusal :=
  if sys.anyStarted then .refused .wiringAfterStart
  else if !sys.alive p || !sys.alive c then .refused .noSuchEngine
  else if !sys.claimed p || !sys.claimed c || sys.links.any (fun l => l.producer == p || l.consumer == c && sys.alive l.producer) then
    .refused .endpointNotHeld
  else .next ({ sys with links := ⟨p, c⟩ :: sys.links }.refreshOpen c)

/-- The host sends a value on a sender it holds (R231, R246). -/
def System.hostSend (sys : System) (c : Nat) (v : Val) : Host.Outcome System Fault Refusal :=
  if sys.hostSenders.contains c then .next (sys.modifyEngine c fun e => e.enqueue [v])
  else .refused .endpointNotHeld

/-- The host drops its sender to engine `c` (spec/42_io.md R147); the queue stays open while a wired engine sends. -/
def System.closeSender (sys : System) (c : Nat) : Host.Outcome System Fault Refusal :=
  if sys.hostSenders.contains c then
    .next ({ sys with hostSenders := sys.hostSenders.filter fun j => j != c }.refreshOpen c)
  else .refused .endpointNotHeld

/-- The host drops engine `k` (R245): it executes nothing further, and the queue it sent to closes unless another sender
exists. -/
def System.drop (sys : System) (k : Nat) : Host.Outcome System Fault Refusal :=
  if sys.alive k then
    let sys' := { sys with slots := sys.slots.modify k fun sl => { sl with dropped := true } }
    match sys.consumerOf k with
    | some c => .next (sys'.refreshOpen c)
    | none => .next sys'
  else .refused .noSuchEngine

/-- The answer to a receive from a queue, and the end of stream once no sender of it remains (R206). -/
def drainQueue (senderRemains : Bool) (vs : List Val) (put : List Val → System) : Drained System :=
  match vs with
  | v :: rest => .value v (put rest)
  | [] => if senderRemains then .empty else .endOfStream

/-- The host receives what engine `k` has sent (R236, R246): from its own queue, or, if that queue feeds an engine that
has ended and so takes nothing more, from that engine's input queue (log 24). DESIGN CHOICE (log 24): a sender the host
still holds to that queue keeps the receive from ending, as any other sender does. -/
def System.drain (sys : System) (k : Nat) : Host.Outcome (Drained System) Fault Refusal :=
  match sys.slots[k]? with
  | none => .refused .noSuchEngine
  | some sl =>
    if !sl.engine.claimed then .refused .endpointNotHeld
    else
      match sys.consumerOf k with
      | none => .next (drainQueue (!sl.dropped) sl.engine.outq fun rest => sys.modifyEngine k fun e => e.setOutq rest)
      | some c =>
        match sys.slots[c]? with
        | none => .refused .noSuchEngine
        | some cons =>
          if cons.dropped || cons.engine.isRunning then .refused .endpointNotHeld
          else .next (drainQueue (sys.senderExists c) cons.engine.inq fun rest => sys.modifyEngine c fun e => e.setInq rest)

end Sys2Proof.Machine
end

