-- ==== Sys2Proof/Safety.lean ====
section
/-! DEFINITION. The terms the claims use: how a run ends (spec/46_halt.md R186), what it means that an engine waits, the
effect of taking a fault, the invariants of the model, and the premises under which an instruction completes. -/

namespace Sys2Proof.Machine

/-! ### How a run ends -/

/-- "ended successfully exactly when `status = Halted`" (R186). -/
def State.endedSuccessfully (s : State) : Bool := decide (s.status = .halted)

/-- "ended in failure exactly when `status = Faulted(kind, info)`" (R186). -/
def State.endedInFailure (s : State) : Bool := !s.isRunning && !s.endedSuccessfully

/-- `n` step requests in a row (spec/60_exceptions.md R240). -/
def State.stepN : Nat → State → Host.Outcome State Fault Refusal
  | 0, s => .next s
  | n + 1, s =>
    match step s with
    | .next t => State.stepN n t
    | .fault r => .fault r
    | .refused r => .refused r

/-- `t` is the state after `n` step requests from `s`, and the engine was still running after each one before the last. -/
def State.RunsTo (s : State) (n : Nat) (t : State) : Prop :=
  s.stepN n = .next t ∧ ∀ m u, 0 < m → m < n → s.stepN m = .next u → u.status = .running

/-- A system "has ended successfully only when every engine is `Halted`" (R186). DESIGN CHOICE (log 39): a dropped engine
still counts, so one that was dropped before it halted bars the success of its system for good. -/
def System.endedSuccessfully (sys : System) : Bool := sys.slots.all fun sl => sl.engine.endedSuccessfully

/-- The engine waits in an Input on its channel (spec/10_state.md R33 (b)): no field records it. -/
def State.waitsOnChannel (s : State) : Bool := decide (s.tmode = .channel) && s.stepBlocks

/-- The step of engine `k` is enabled (spec/60_exceptions.md R234). DESIGN CHOICE (log 25): R234 tests the input queue alone,
so an Interactive engine at an Input counts as enabled whether or not its terminal has a line. -/
def System.enabled (sys : System) (k : Nat) : Bool :=
  match sys.slots[k]? with
  | some sl => !sl.dropped && sl.engine.isRunning && !sl.engine.waitsOnChannel
  | none => false

/-- No engine can step (spec/60_exceptions.md R234: "a deadlock; it is not an error the hardware reports"), unless the host sends. -/
def System.stuck (sys : System) : Bool := (List.range sys.slots.length).all fun k => !sys.enabled k

/-! ### Invariants -/

/-- The materialisation set (spec/10_state.md R21, R33): rising, each at or above `N`, holding every written cell at or
above `N`, within the capacity (spec/20_memory.md R60). -/
structure State.ExtWf (s : State) : Prop where
  rising : s.ext.Pairwise (· < ·)
  above : ∀ a ∈ s.ext, s.progLen ≤ a
  covers : ∀ c ∈ s.mem, s.progLen ≤ c.1 → c.1 ∈ s.ext
  capacity : ∀ n, s.memCapacity = some n → s.ext.length ≤ n

/-- The address bounds (spec/10_state.md R24, spec/20_memory.md R61): nothing is stored at or above `2^63`, and
`ip ≤ 2^63 + 3`. -/
structure State.Bounded (s : State) : Prop where
  prog : s.progLen ≤ dataSpace
  cells : ∀ c ∈ s.mem, c.1 < dataSpace
  ip : s.ip ≤ dataSpace + 3

/-- What a stopped engine shows (spec/60_exceptions.md R210, spec/46_halt.md R185): the fault record holds the `ip` the
engine stopped at and the word there, and a Halted engine stands at a Halt word. -/
def State.StopRecorded (s : State) : Prop :=
  match s.status with
  | .running => True
  | .halted => s.decodeAt s.ip = .ok (.halt, 1)
  | .faulted r => r.ip = s.ip ∧ r.word = s.read s.ip

/-- The engines of the system have pairwise different terminal numbers, all below the next one to be given (log 36). -/
structure System.OwnTerminals (sys : System) : Prop where
  distinct : (sys.slots.map fun sl => sl.engine.terminal).Nodup
  fresh : ∀ sl ∈ sys.slots, sl.engine.terminal < sys.nextTerminal

/-! ### Effects the claims name -/

/-- `Faulted(K, (ip, w, detail))` and nothing else changed (spec/60_exceptions.md R210), written out. -/
def State.faultedBy (s : State) (t : Trap) : State :=
  { s with status := .faulted ⟨t.kind, s.ip, s.mem.read s.ip, t.detail⟩ }

/-- The write of `v` at `k` needs no new sparse entry, or there is room for one (spec/20_memory.md R53, R60). -/
def State.HasRoom (s : State) (k : Nat) : Prop :=
  k < s.progLen ∨ k ∈ s.ext ∨ ∀ n, s.memCapacity = some n → s.ext.length < n

/-- FRAME: `t` has cell `k` set to `v`, `k` materialised if it is at or above `N`, and `ip` at `ip'`; every other cell and
every other field is as in `s`. -/
structure Stored (s t : State) (k : Nat) (v : Val) (ip' : Nat) : Prop where
  written : t.read k = v
  kept : ∀ a, a ≠ k → t.read a = s.read a
  ext : ∀ a, a ∈ t.ext ↔ a ∈ s.ext ∨ a = k ∧ s.progLen ≤ k
  ip : t.ip = ip'
  rest : t = { s with mem := t.mem, ext := t.ext, ip := t.ip }

/-! ### What flows through a wire (spec/20_memory.md R64, spec/60_exceptions.md R233) -/

/-- The values the engine appended to its output queue between `s` and `t`. -/
def stepSends (s t : State) : List Val := t.outq.drop s.outq.length

/-- The values the engine took from its input queue between `s` and `t`. -/
def stepTakes (s t : State) : List Val := s.inq.take (s.inq.length - t.inq.length)

/-- What engine `k` of the system does in one step of its own, seen by a function of the state before and after. -/
def System.observe (sys : System) (k : Nat) (f : State → State → List Val) : List Val :=
  match sys.slots[k]? with
  | some sl =>
    match step sl.engine with
    | .next e => f sl.engine e
    | .fault _ => []
    | .refused _ => []
  | none => []

/-- What engine `p` shows over a schedule, oldest first. -/
def System.observeRun (p : Nat) (f : State → State → List Val) : List Nat → System → List Val
  | [], _ => []
  | k :: ks, sys =>
    match sys.stepEngine k with
    | .next sys' => (if k = p then sys.observe k f else []) ++ System.observeRun p f ks sys'
    | .fault _ => []
    | .refused _ => []

end Sys2Proof.Machine
end

