-- ==== Sys2Proof/Certificates/Slice0/Obligations.lean ====
section
/-! DEFINITION. The statements for the provers. Each docstring names the rule of spec/ it rests on. Where a clause rests on
a decision of the spec (spec/92_eei_decisions.md) or of the model (notes/assumptions), it says so. -/

open Sys2Proof Sys2Proof.Machine

/-! ### Encoding and decoding -/

/-- Every instruction, ill-formed ones included, is what its cells decode to, whatever follows them
(spec/30_encoding.md, sections 1 to 3). The opcode numbers are the spec's D1 (log 4). -/
def Obligations.DecodeOfEncodeIsIdentity : Prop :=
  ∀ (i : Instr) (rest : List Val), decodeList (encode i ++ rest) = .ok (i, i.size)

/-- A word with no digit above its last mode digit is the word its instruction encodes to, and the operand cells are
the instruction's raw operands (spec/30_encoding.md R82, R94). -/
def Obligations.CanonicalWordEncodesBack : Prop :=
  ∀ (w c1 c2 c3 : Val) (i : Instr) (n : Nat), decodeCells w c1 c2 c3 = .ok (i, n) →
    w.toNat < 10 ^ (i.operands.length + 2) → encode i = w :: [c1, c2, c3].take i.operands.length

/-- A few words written out from the tables of spec/30_encoding.md and the vectors V-DEC, one or more a family. The opcode
numbers 3 to 9 are the spec's D1 (log 4); that the two words with higher digits, 1003 and 1199, decode is its D5 (log 6). -/
def Obligations.SampleWordsDecode : Prop :=
  decodeList [1002, 4, 3, 4] = .ok (.multiply (.position 4) (.immediate 3) (.position 4), 4) ∧
  decodeList [21101, 7, 8, 0] = .ok (.add (.immediate 7) (.immediate 8) (.relative 0), 4) ∧
  decodeList [203, -3] = .ok (.input (.relative (-3)), 2) ∧
  decodeList [1003, 5] = .ok (.input (.position 5), 2) ∧
  decodeList [204, 5] = .ok (.output (.relative 5), 2) ∧
  decodeList [1105, 1, 4] = .ok (.jumpIfTrue (.immediate 1) (.immediate 4), 3) ∧
  decodeList [1006, 100, 14] = .ok (.jumpIfFalse (.position 100) (.immediate 14), 3) ∧
  decodeList [1107, -1, 8, 3] = .ok (.lessThan (.immediate (-1)) (.immediate 8) (.position 3), 4) ∧
  decodeList [1008, 100, 16, 101] = .ok (.equals (.position 100) (.immediate 16) (.position 101), 4) ∧
  decodeList [109, 20] = .ok (.adjustRelativeBase (.immediate 20), 2) ∧
  decodeList [1199] = .ok (.halt, 1)

/-- The size is one more than the arity, 1 for Halt and 2 to 4 for the others, and the decoder tells it from `w mod 100`
and nothing else: mode digits never change it (spec/30_encoding.md R81). -/
def Obligations.SizeIsOnePlusArity : Prop :=
  (∀ (w c1 c2 c3 : Val) (i : Instr) (n : Nat), decodeCells w c1 c2 c3 = .ok (i, n) →
    n = 1 + i.operands.length ∧ i.opcode.number = w.toNat % 100 ∧ n = i.opcode.size ∧
      (i = .halt → n = 1) ∧ (i ≠ .halt → 2 ≤ n ∧ n ≤ 4)) ∧
  ∀ (w w' c1 c2 c3 c1' c2' c3' : Val) (r r' : Instr × Nat), decodeCells w c1 c2 c3 = .ok r →
    decodeCells w' c1' c2' c3' = .ok r' → w.toNat % 100 = w'.toNat % 100 → r.2 = r'.2

/-- A non-negative word whose two low digits are an opcode and whose mode digits are 0, 1 or 2 decodes to that opcode's
instruction, each parameter taking its form from its own digit and its raw value from its own cell
(spec/30_encoding.md, R80, R86, R87, R89). -/
def Obligations.DecodeReadsEveryDigit : Prop :=
  ∀ (w c1 c2 c3 : Val) (op : Opcode), 0 ≤ w.toInt → w.toNat % 100 = op.number →
    (∀ p, 1 ≤ p → p ≤ op.arity → w.toNat / 10 ^ (p + 1) % 10 ≤ 2) →
    ∃ i, decodeCells w c1 c2 c3 = .ok (i, 1 + op.arity) ∧ i.opcode = op ∧ i.operands.length = op.arity ∧
      ∀ p, p < op.arity → ∃ o, i.operands[p]? = some o ∧ o.mode = w.toNat / 10 ^ (p + 2) % 10 ∧
        [c1, c2, c3][p]? = some o.raw

/-- Which words are UnknownOpcode: the negative ones (D4, log 5) and those whose two low digits are 0 or 10 to 98
(spec/30_encoding.md R83, R90). No other word is, whatever its cells. -/
def Obligations.UnknownOpcodeExactly : Prop :=
  ∀ w c1 c2 c3 : Val,
    decodeCells w c1 c2 c3 = .error (.unknownOpcode w) ↔
      w.toInt < 0 ∨ w.toNat % 100 = 0 ∨ (10 ≤ w.toNat % 100 ∧ w.toNat % 100 ≤ 98)

/-- Illegal mode digits (spec/30_encoding.md R91): decode reports InvalidAddressingMode for parameter `p` exactly when its
digit is 3 to 9 and no lower parameter's is; no word with `w mod 100 = 99` raises it; and it is fatal, taken by the step
that fetches the word. -/
def Obligations.LowestBadModeIsReported : Prop :=
  (∀ (w c1 c2 c3 : Val) (op : Opcode) (p g : Nat), 0 ≤ w.toInt → w.toNat % 100 = op.number →
    (decodeCells w c1 c2 c3 = .error (.invalidAddressingMode p g) ↔
      1 ≤ p ∧ p ≤ op.arity ∧ w.toNat / 10 ^ (p + 1) % 10 = g ∧ 2 < g ∧
        ∀ q, 1 ≤ q → q < p → w.toNat / 10 ^ (q + 1) % 10 ≤ 2)) ∧
  (∀ (w c1 c2 c3 : Val) (p g : Nat), w.toNat % 100 = 99 →
    decodeCells w c1 c2 c3 ≠ .error (.invalidAddressingMode p g)) ∧
  ∀ (s : State) (p g : Nat), s.status = .running → s.ip < 2 ^ 64 →
    s.decodeAt s.ip = .error (.invalidAddressingMode p g) →
    step s = .next ({ s with started := true }.faultedBy ⟨.invalidAddressingMode, .mode p g⟩)

/-- Digits above the last mode digit are not read (spec/30_encoding.md R88, the spec's D5, log 6). -/
def Obligations.HigherDigitsIgnored : Prop :=
  ∀ (w w' c1 c2 c3 : Val) (op : Opcode), 0 ≤ w.toInt → 0 ≤ w'.toInt → w.toNat % 100 = op.number →
    w.toNat % 10 ^ (op.arity + 2) = w'.toNat % 10 ^ (op.arity + 2) →
    decodeCells w c1 c2 c3 = decodeCells w' c1 c2 c3

/-! ### Operands and memory -/

/-- The value of a source operand (spec/20_memory.md R54). -/
def Obligations.SourceOperandValue : Prop :=
  ∀ (s : State) (raw : Val),
    s.src (.position raw) =
      (if raw.toInt < 0 then .error ⟨.negativeAddress, .value raw⟩ else .ok (s.read raw.toInt.toNat)) ∧
    s.src (.immediate raw) = .ok raw ∧
    s.src (.relative raw) =
      (if s.rb.toInt + raw.toInt < -2 ^ 63 ∨ s.rb.toInt + raw.toInt > 2 ^ 63 - 1 then
        .error ⟨.arithmeticOverflow, .nothing⟩
      else if s.rb.toInt + raw.toInt < 0 then
        .error ⟨.negativeAddress, .value (BitVec.ofInt 64 (s.rb.toInt + raw.toInt))⟩
      else .ok (s.read (s.rb.toInt + raw.toInt).toNat))

/-- The address a destination operand names; it is not dereferenced (spec/20_memory.md R55). -/
def Obligations.DestinationOperandAddress : Prop :=
  ∀ (s : State) (p : Nat) (raw : Val),
    s.dst p (.position raw) =
      (if raw.toInt < 0 then .error ⟨.negativeAddress, .value raw⟩ else .ok raw.toInt.toNat) ∧
    s.dst p (.immediate raw) = .error ⟨.invalidWriteTarget, .param p⟩ ∧
    s.dst p (.relative raw) =
      (if s.rb.toInt + raw.toInt < -2 ^ 63 ∨ s.rb.toInt + raw.toInt > 2 ^ 63 - 1 then
        .error ⟨.arithmeticOverflow, .nothing⟩
      else if s.rb.toInt + raw.toInt < 0 then
        .error ⟨.negativeAddress, .value (BitVec.ofInt 64 (s.rb.toInt + raw.toInt))⟩
      else .ok (s.rb.toInt + raw.toInt).toNat)

/-- A write changes its cell, materialises it at or above `N`, and nothing else; it is refused exactly when it would
create one sparse entry too many (spec/20_memory.md R53, R60; the capacity is the spec's D16, log 15). -/
def Obligations.MemWriteStoresOrExhausts : Prop :=
  ∀ (s : State) (a : Nat) (v : Val), s.mem.wf →
    (s.HasRoom a → ∃ t, s.memWrite a v = .ok t ∧ Stored s t a v s.ip) ∧
    (¬ s.HasRoom a → s.memWrite a v = .error ⟨.memoryExhausted, .address a⟩)

/-- A cell at or above `N` that was never materialised reads 0 (spec/20_memory.md R52), in every state that meets the
invariant of the materialisation set. -/
def Obligations.UnmaterialisedReadsZero : Prop :=
  ∀ (s : State) (a : Nat), s.ExtWf → s.progLen ≤ a → a ∉ s.ext → s.read a = 0

/-! ### Results, with their frames -/

/-- Add (spec/41_arithmetic.md R130, Operation): the exact sum at the destination, `ip + 4`, nothing else. -/
def Obligations.AddStoresExactSum : Prop :=
  ∀ (a b d : Operand) (s : State) (x y : Val) (k : Nat), s.mem.wf → s.src a = .ok x → s.src b = .ok y →
    s.dst 3 d = .ok k → InRange (x.toInt + y.toInt) → s.HasRoom k →
    ∃ t v, exec (.add a b d) s = .next t ∧ v.toInt = x.toInt + y.toInt ∧ Stored s t k v (s.ip + 4)

/-- Multiply (spec/41_arithmetic.md R131, Operation): the exact product at the destination, `ip + 4`, nothing else. -/
def Obligations.MultiplyStoresExactProduct : Prop :=
  ∀ (a b d : Operand) (s : State) (x y : Val) (k : Nat), s.mem.wf → s.src a = .ok x → s.src b = .ok y →
    s.dst 3 d = .ok k → InRange (x.toInt * y.toInt) → s.HasRoom k →
    ∃ t v, exec (.multiply a b d) s = .next t ∧ v.toInt = x.toInt * y.toInt ∧ Stored s t k v (s.ip + 4)

/-- LessThan (spec/44_compare.md R170, Operation): 1 or 0 by the signed comparison, which cannot overflow. -/
def Obligations.LessThanStoresTruth : Prop :=
  ∀ (a b d : Operand) (s : State) (x y : Val) (k : Nat), s.mem.wf → s.src a = .ok x → s.src b = .ok y →
    s.dst 3 d = .ok k → s.HasRoom k →
    ∃ t, exec (.lessThan a b d) s = .next t ∧ Stored s t k (if x.toInt < y.toInt then 1 else 0) (s.ip + 4)

/-- Equals (spec/44_compare.md R171, Operation). -/
def Obligations.EqualsStoresTruth : Prop :=
  ∀ (a b d : Operand) (s : State) (x y : Val) (k : Nat), s.mem.wf → s.src a = .ok x → s.src b = .ok y →
    s.dst 3 d = .ok k → s.HasRoom k →
    ∃ t, exec (.equals a b d) s = .next t ∧ Stored s t k (if x.toInt = y.toInt then 1 else 0) (s.ip + 4)

/-- Input on a channel with a value queued (spec/42_io.md R140, R145): the oldest value at the destination, `ip + 2`,
the queue one shorter, nothing else. It holds whether or not a sender is left: that a queued value is still delivered once
the last sender has gone is PRESUMED (the spec's G3, general knowledge; log 33). -/
def Obligations.InputStoresOldestQueued : Prop :=
  ∀ (d : Operand) (s : State) (k : Nat) (v : Val) (rest : List Val), s.mem.wf → s.tmode = .channel →
    s.dst 1 d = .ok k → s.inq = v :: rest → s.HasRoom k →
    ∃ t, exec (.input d) s = .next t ∧ Stored { s with inq := rest } t k v (s.ip + 2)

/-- Input on an empty channel (spec/42_io.md R140, R145): while a sender exists the step is not complete and no field
changes; when none is left the engine faults with ChannelClosed (D13, log 12; the order is G3, log 33). -/
def Obligations.InputOnEmptyChannelWaitsOrFaults : Prop :=
  ∀ (d : Operand) (s : State) (k : Nat), s.tmode = .channel → s.dst 1 d = .ok k → s.inq = [] →
    exec (.input d) s =
      .next (if s.inOpen then s else s.faultedBy ⟨.channelClosed, .nothing⟩)

/-- Input on the terminal (spec/42_io.md R148), for EVERY event the engine's terminal may show and every ON_BAD_INPUT and
ON_EOF; the event is a free value (log 16), what the two parameters range over is log 17, the prompt's record log 18. -/
def Obligations.InputOnTerminalFollowsEvent : Prop :=
  ∀ (d : Operand) (s : State) (k : Nat), s.mem.wf → s.tmode = .interactive → s.dst 1 d = .ok k →
    let shown := if s.prompted then s.prompts else s.prompts ++ [s.outq.length]
    let reply : TerminalReply :=
      match Config.terminalEvent s.terminal s.termDraws with
      | .line v => .value v
      | .waiting => .retry
      | .badLine => s.onBadInput
      | .endOfFile => s.onEndOfFile
    ∃ t, exec (.input d) s = .next t ∧
      match reply with
      | .value v =>
        (s.HasRoom k →
          Stored { s with prompts := shown, prompted := false, termDraws := s.termDraws + 1 } t k v (s.ip + 2)) ∧
        (¬ s.HasRoom k →
          t = { s with prompts := shown, prompted := true }.faultedBy ⟨.memoryExhausted, .address k⟩)
      | .retry => t = { s with prompts := shown, prompted := true, termDraws := s.termDraws + 1 }
      | .fault e => t = { s with prompts := shown, prompted := true }.faultedBy e

/-- Output (spec/42_io.md R141, R146): the value at the end of the output queue, `ip + 2`, nothing else; only the operand
can fault (log 14). On a channel this is the spec's `send`; that a value printed on the Interactive terminal goes to the same
field is the model's choice (log 19). -/
def Obligations.OutputAppendsValue : Prop :=
  ∀ (a : Operand) (s : State),
    (∀ x, s.src a = .ok x → exec (.output a) s = .next { s with outq := s.outq ++ [x], ip := s.ip + 2 }) ∧
    ∀ e, s.src a = .error e → exec (.output a) s = .next (s.faultedBy e)

/-- JumpIfTrue (spec/43_jumps.md R160, Operation): `ip` alone changes. -/
def Obligations.JumpIfTrueMovesIp : Prop :=
  ∀ (a b : Operand) (s : State) (x y : Val), s.src a = .ok x → s.src b = .ok y → 0 ≤ y.toInt →
    ∃ t : Nat, exec (.jumpIfTrue a b) s = .next { s with ip := t } ∧
      (x.toInt ≠ 0 → (t : Int) = y.toInt) ∧ (x.toInt = 0 → t = s.ip + 3)

/-- JumpIfFalse (spec/43_jumps.md R161, Operation): `ip` alone changes. -/
def Obligations.JumpIfFalseMovesIp : Prop :=
  ∀ (a b : Operand) (s : State) (x y : Val), s.src a = .ok x → s.src b = .ok y → 0 ≤ y.toInt →
    ∃ t : Nat, exec (.jumpIfFalse a b) s = .next { s with ip := t } ∧
      (x.toInt = 0 → (t : Int) = y.toInt) ∧ (x.toInt ≠ 0 → t = s.ip + 3)

/-- Where a conditional jump traps (spec/43_jumps.md R160 to R163): the operands in order, then a negative target, whether
or not the jump would be taken (D9, D29; log 8, log 29). -/
def Obligations.JumpFaultsEagerly : Prop :=
  ∀ (a b : Operand) (s : State) (i : Instr), i ∈ [Instr.jumpIfTrue a b, Instr.jumpIfFalse a b] →
    (∀ e, s.src a = .error e → exec i s = .next (s.faultedBy e)) ∧
    (∀ x e, s.src a = .ok x → s.src b = .error e → exec i s = .next (s.faultedBy e)) ∧
    ∀ x y, s.src a = .ok x → s.src b = .ok y → y.toInt < 0 →
      exec i s = .next (s.faultedBy ⟨.negativeAddress, .value y⟩)

/-- AdjustRelativeBase (spec/45_relative_base.md R180): the exact sum in `rb`, `ip + 2`, nothing else; overflow and a bad
operand fault (D7, log 28). -/
def Obligations.AdjustRelativeBaseAdds : Prop :=
  ∀ (a : Operand) (s : State),
    (∀ x, s.src a = .ok x → InRange (s.rb.toInt + x.toInt) →
      ∃ v, exec (.adjustRelativeBase a) s = .next { s with rb := v, ip := s.ip + 2 } ∧
        v.toInt = s.rb.toInt + x.toInt) ∧
    (∀ x, s.src a = .ok x → ¬ InRange (s.rb.toInt + x.toInt) →
      exec (.adjustRelativeBase a) s = .next (s.faultedBy ⟨.arithmeticOverflow, .nothing⟩)) ∧
    ∀ e, s.src a = .error e → exec (.adjustRelativeBase a) s = .next (s.faultedBy e)

/-- Halt (spec/46_halt.md R185): the status alone changes; that `ip` stays is the spec's D11 (log 10). -/
def Obligations.HaltOnlyStops : Prop := ∀ s : State, exec .halt s = .next { s with status := .halted }

/-! ### Faults -/

/-- Where a three-operand instruction traps before its operation, in the order of spec/60_exceptions.md R212: first
source, second source, destination (D8, log 7). -/
def Obligations.ThreeOperandFaultOrder : Prop :=
  ∀ (a b d : Operand) (s : State) (i : Instr),
    i ∈ [Instr.add a b d, Instr.multiply a b d, Instr.lessThan a b d, Instr.equals a b d] →
    (∀ e, s.src a = .error e → exec i s = .next (s.faultedBy e)) ∧
    (∀ x e, s.src a = .ok x → s.src b = .error e → exec i s = .next (s.faultedBy e)) ∧
    ∀ x y e, s.src a = .ok x → s.src b = .ok y → s.dst 3 d = .error e → exec i s = .next (s.faultedBy e)

/-- An Immediate destination is no decode fault: the words of spec/30_encoding.md R92 decode, to instructions that are
not well-formed, and each of the five instructions with a destination raises InvalidWriteTarget when it executes, once its
sources are resolved. That this comes before an overflow of Add or Multiply is the spec's D8 (log 7), and before any wait
of Input its D14 (log 13). -/
def Obligations.ImmediateDestinationFaultsWhenExecuted : Prop :=
  (∀ (w c1 c2 c3 : Val), w ∈ ([11101, 10002, 10107, 10008, 103] : List Val) →
    ∃ i n, decodeCells w c1 c2 c3 = .ok (i, n) ∧ i.wellFormed = false) ∧
  ∀ (a b : Operand) (raw x y : Val) (s : State) (rest : List Val), s.src a = .ok x → s.src b = .ok y →
    (∀ i ∈ [Instr.add a b (.immediate raw), .multiply a b (.immediate raw), .lessThan a b (.immediate raw),
        .equals a b (.immediate raw)],
      decodeList (encode i ++ rest) = .ok (i, 4) ∧ exec i s = .next (s.faultedBy ⟨.invalidWriteTarget, .param 3⟩)) ∧
    decodeList (encode (.input (.immediate raw)) ++ rest) = .ok (.input (.immediate raw), 2) ∧
    exec (.input (.immediate raw)) s = .next (s.faultedBy ⟨.invalidWriteTarget, .param 1⟩)

/-- A sum or a product outside the range faults and nothing is written (spec/40_execution_cycle.md R120,
spec/60_exceptions.md R205; D7, log 28). -/
def Obligations.ArithmeticOverflowFaults : Prop :=
  ∀ (a b d : Operand) (s : State) (x y : Val) (k : Nat), s.src a = .ok x → s.src b = .ok y → s.dst 3 d = .ok k →
    (¬ InRange (x.toInt + y.toInt) → exec (.add a b d) s = .next (s.faultedBy ⟨.arithmeticOverflow, .nothing⟩)) ∧
    (¬ InRange (x.toInt * y.toInt) → exec (.multiply a b d) s = .next (s.faultedBy ⟨.arithmeticOverflow, .nothing⟩))

/-- A write that would create one sparse entry too many faults, and an Input takes no value (spec/20_memory.md R60,
spec/60_exceptions.md R208, R211; D16, log 15). -/
def Obligations.MemoryExhaustedFaults : Prop :=
  ∀ (a b d : Operand) (s : State) (x y v : Val) (rest : List Val) (k : Nat), ¬ s.HasRoom k → s.src a = .ok x → s.src b = .ok y →
    (s.dst 3 d = .ok k →
      (InRange (x.toInt + y.toInt) → exec (.add a b d) s = .next (s.faultedBy ⟨.memoryExhausted, .address k⟩)) ∧
      (InRange (x.toInt * y.toInt) → exec (.multiply a b d) s = .next (s.faultedBy ⟨.memoryExhausted, .address k⟩)) ∧
      exec (.lessThan a b d) s = .next (s.faultedBy ⟨.memoryExhausted, .address k⟩) ∧
      exec (.equals a b d) s = .next (s.faultedBy ⟨.memoryExhausted, .address k⟩)) ∧
    (s.dst 1 d = .ok k → s.tmode = .channel → s.inq = v :: rest →
      exec (.input d) s = .next (s.faultedBy ⟨.memoryExhausted, .address k⟩))

/-- An Input with a bad destination faults at once, in either mode and whatever is queued: nothing is taken and nothing
is waited for (spec/42_io.md R140; D14, log 13). -/
def Obligations.InputBadDestinationFaultsAtOnce : Prop :=
  ∀ (d : Operand) (s : State) (e : Trap), s.dst 1 d = .error e → exec (.input d) s = .next (s.faultedBy e)

/-- A fault is precise (spec/60_exceptions.md R210, R211): the record names the faulting instruction's address and word,
and no other field changes, the prompt of an Interactive Input apart (D10, log 9; log 18). -/
def Obligations.FaultIsPrecise : Prop :=
  ∀ (i : Instr) (s t : State) (r : FaultRecord), exec i s = .next t → s.status = .running → t.status = .faulted r →
    r.ip = s.ip ∧ r.word = s.read s.ip ∧
      t = { s with status := .faulted r, prompts := t.prompts, prompted := t.prompted } ∧
      (s.tmode = .channel ∨ (∀ d, i ≠ .input d) → t.prompts = s.prompts ∧ t.prompted = s.prompted)

/-- An engine that is Halted or Faulted executes nothing: a step request sets `started` and nothing else
(spec/60_exceptions.md R240, R213; D12, log 11). -/
def Obligations.StoppedEngineExecutesNothing : Prop :=
  ∀ s : State, s.status ≠ .running → step s = .next { s with started := true }

/-! ### The step -/

/-- A step of a running engine is `exec` of the decoded instruction, with `started` set (spec/40_execution_cycle.md R110,
R111; spec/60_exceptions.md R240). -/
def Obligations.StepRunsDecodedInstruction : Prop :=
  ∀ (s : State) (i : Instr) (n : Nat), s.status = .running → s.ip < 2 ^ 64 →
    decodeCells (s.read s.ip) (s.read (s.ip + 1)) (s.read (s.ip + 2)) (s.read (s.ip + 3)) = .ok (i, n) →
    step s = exec i { s with started := true }

/-- A word that does not decode faults in the step that fetches it (spec/60_exceptions.md R201, R202). -/
def Obligations.DecodeFaultIsTaken : Prop :=
  ∀ s : State, s.status = .running → s.ip < 2 ^ 64 →
    (∀ w, s.decodeAt s.ip = .error (.unknownOpcode w) →
      step s = .next ({ s with started := true }.faultedBy ⟨.unknownOpcode, .word w⟩)) ∧
    ∀ p g, s.decodeAt s.ip = .error (.invalidAddressingMode p g) →
      step s = .next ({ s with started := true }.faultedBy ⟨.invalidAddressingMode, .mode p g⟩)

/-- After a completed instruction `ip` has advanced by the size decode returned, as decoded and not as rewritten, except
for a jump, which may set it, and an Input that waits (spec/40_execution_cycle.md R118, spec/70_reset_and_hazards.md R262). -/
def Obligations.StepAdvancesBySizeAsDecoded : Prop :=
  ∀ (s t : State) (i : Instr) (n : Nat), s.status = .running → s.decodeAt s.ip = .ok (i, n) → step s = .next t →
    t.status = .running →
    (t.ip = s.ip + n) ∨
    (∃ a b y, (i = .jumpIfTrue a b ∨ i = .jumpIfFalse a b) ∧ s.src b = .ok y ∧ (t.ip : Int) = y.toInt) ∨
    (∃ d, i = .input d ∧ t.ip = s.ip ∧ t.mem = s.mem ∧ t.inq = s.inq)

/-- A store to the word after an Add is what the next step decodes (spec/20_memory.md R67, spec/70_reset_and_hazards.md
R261). -/
def Obligations.StoreIsSeenByNextFetch : Prop :=
  ∀ (a b d : Operand) (s t : State) (x y v : Val), s.mem.wf → s.status = .running → s.src a = .ok x →
    s.src b = .ok y → s.dst 3 d = .ok (s.ip + 4) → v.toInt = x.toInt + y.toInt → s.HasRoom (s.ip + 4) →
    exec (.add a b d) s = .next t →
    t.status = .running ∧
      t.decodeAt t.ip = decodeCells v (s.read (s.ip + 5)) (s.read (s.ip + 6)) (s.read (s.ip + 7))

/-- After an AdjustRelativeBase every Relative operand uses the new `rb`: it reads the cell at the old `rb` plus the
adjustment plus its offset, 0 if never written (spec/45_relative_base.md R181). -/
def Obligations.RelativeOperandUsesNewBase : Prop :=
  ∀ (a : Operand) (s t : State) (x raw : Val), s.status = .running → s.src a = .ok x →
    exec (.adjustRelativeBase a) s = .next t → t.status = .running →
    0 ≤ s.rb.toInt + x.toInt + raw.toInt → s.rb.toInt + x.toInt + raw.toInt ≤ 2 ^ 63 - 1 →
    t.src (.relative raw) = .ok (s.read (s.rb.toInt + x.toInt + raw.toInt).toNat)

/-! ### Whole-machine rules -/

/-- `rb` is "Written by: AdjustRelativeBase only" (spec/10_state.md R26). -/
def Obligations.RelativeBaseWrittenOnlyByAdjust : Prop :=
  ∀ (i : Instr) (s t : State), exec i s = .next t → t.rb ≠ s.rb → ∃ a, i = .adjustRelativeBase a

/-- Only Add, Multiply, Input, LessThan and Equals write memory (spec/10_state.md R21, spec/20_memory.md R53), only Output
sends and only Input takes (R32). That Interactive outputs stand in `outq` too is the model's choice (log 19). -/
def Obligations.WritersOfMemoryAndQueues : Prop :=
  ∀ (i : Instr) (s t : State), exec i s = .next t →
    ((t.mem ≠ s.mem ∨ t.ext ≠ s.ext) → i.opcode ∈ [Opcode.add, .multiply, .input, .lessThan, .equals]) ∧
    (t.outq ≠ s.outq → ∃ a, i = .output a) ∧
    (t.inq ≠ s.inq → ∃ d, i = .input d)

/-- No instruction changes the transport registers, the ownership of the queue, or a constant of the engine
(spec/10_state.md R21, R29; spec/42_io.md R150). -/
def Obligations.InstructionsKeepHostRegisters : Prop :=
  ∀ (i : Instr) (s t : State), exec i s = .next t →
    t.tmode = s.tmode ∧ t.claimed = s.claimed ∧ t.started = s.started ∧ t.inOpen = s.inOpen ∧
      t.progLen = s.progLen ∧ t.memCapacity = s.memCapacity ∧ t.terminal = s.terminal ∧
      t.onBadInput = s.onBadInput ∧ t.onEndOfFile = s.onEndOfFile

/-- `Halted` is entered only by the Halt instruction (spec/10_state.md R27). -/
def Obligations.HaltedOnlyByHalt : Prop :=
  ∀ s t : State, step s = .next t → s.status ≠ .halted → t.status = .halted → s.decodeAt s.ip = .ok (.halt, 1)

/-- With the default, unbounded, capacity no instruction's effect depends on the materialisation set
(spec/10_state.md R33 (a)), nor, whatever the capacity, on `claimed` or `started` (R29). -/
def Obligations.HiddenStateIsUnobservable : Prop :=
  ∀ (i : Instr) (s t : State) (e : List Nat) (b b' : Bool), exec i s = .next t →
    (s.memCapacity = none → ∃ e', exec i { s with ext := e } = .next { t with ext := e' }) ∧
    exec i { s with claimed := b, started := b' } = .next { t with claimed := b, started := b' }

/-! ### Invariants every step keeps -/

/-- Memory stays in its canonical form (the form is the model's, log 2). -/
def Obligations.StepKeepsCanonicalMemory : Prop :=
  ∀ s t : State, s.mem.wf → step s = .next t → t.mem.wf

/-- The materialisation set stays what spec/10_state.md R21 and R33 and spec/20_memory.md R60 say. -/
def Obligations.StepKeepsMaterialisationSet : Prop :=
  ∀ s t : State, s.ExtWf → step s = .next t → t.ExtWf

/-- Nothing is stored at or above `2^63` and `ip` stays at most `2^63 + 3` (the spec derives it in spec/10_state.md,
section 2; log 3). -/
def Obligations.StepKeepsAddressBounds : Prop :=
  ∀ s t : State, s.Bounded → step s = .next t → t.Bounded

/-- A stopped engine keeps showing where it stopped: a fault record that names `ip` and the word there, or a Halt word at
`ip` (spec/60_exceptions.md R210, spec/46_halt.md R185; D10, D11). -/
def Obligations.StepKeepsStopRecord : Prop :=
  ∀ s t : State, s.StopRecorded → step s = .next t → t.StopRecorded

/-- The reset state meets all four invariants. -/
def Obligations.ResetMeetsInvariants : Prop :=
  State.reset.mem.wf ∧ State.reset.ExtWf ∧ State.reset.Bounded ∧ State.reset.StopRecorded

/-- An engine within the address bounds never stops without a next state: `step` answers one, and with
`StepKeepsAddressBounds` so does every later step. That a fault is a next state follows the spec's D10 (log 9), that a
waiting Input's step, which R110 calls not complete, is one too is the model's choice (log 23), and that `ip` needs no more
than the bounds is DEDUCED (log 3). -/
def Obligations.StepAlwaysAnswersNext : Prop :=
  ∀ s : State, s.Bounded → ∃ t, step s = .next t ∧ t.started = true

/-! ### The host's requests -/

/-- Reset is construction (spec/70_reset_and_hazards.md R250), whatever the other parameters. That `ip` is 0 the spec
derives (R35, D30; DEDUCED, log 35); what Inspect memory then shows is R243 and R36; the defaults of the parameters are
unbounded (D16, log 15) and ChannelClosed (D22, log 17). The last parameter, the number of the engine's terminal, is no
part of the reset state the spec lists but the model's own field and choice (log 36). -/
def Obligations.ConstructionGivesResetState : Prop :=
  ∀ (prog : List Val) (setup : Setup),
    let s := State.construct prog setup
    (∀ a, s.read a = prog.getD a 0) ∧ s.progLen = prog.length ∧ s.ext = [] ∧ s.rb = 0 ∧ s.ip = 0 ∧
    s.status = .running ∧ s.tmode = .interactive ∧ s.claimed = false ∧ s.started = false ∧ s.inspectMemory = prog ∧
    (s.memCapacity = setup.memCapacity ∧ s.onBadInput = setup.onBadInput ∧ s.onEndOfFile = setup.onEndOfFile ∧
      s.terminal = setup.terminal) ∧
    (State.construct prog).memCapacity = none ∧
    (State.construct prog).onBadInput = .fault ⟨.channelClosed, .nothing⟩ ∧
    (State.construct prog).onEndOfFile = .fault ⟨.channelClosed, .nothing⟩

/-- An engine constructed from a program of at most `2^63` cells (D24, log 31) meets the invariants, whatever its
capacity and its other parameters. -/
def Obligations.ConstructionMeetsInvariants : Prop :=
  ∀ (prog : List Val) (setup : Setup), prog.length ≤ 2 ^ 63 →
    (State.construct prog setup).mem.wf ∧ (State.construct prog setup).ExtWf ∧ (State.construct prog setup).Bounded ∧
      (State.construct prog setup).StopRecorded

/-- A step request answers whether the engine is still running (spec/60_exceptions.md R240); that it answers at once, with
true, while an Input waits, and that a run request counts such an attempt, is the model's choice (log 23). A run request (R244) is the
repetition of it until it answers false, here cut off after `fuel` of them: its answer is that of the state it stopped at,
after at least one step request, with the engine still running after each earlier one; that state is stopped unless `fuel`
ran out; and wherever there is such a state the run request answers. The answer is success for `Halted`, the fault record
for `Faulted`, and not ended for `Running` (R244, spec/46_halt.md R186). -/
def Obligations.RequestsReportStatus : Prop :=
  (∀ (s t : State) (b : Bool), s.hostStep = .next (t, b) → step s = .next t ∧ (b = true ↔ t.status = .running)) ∧
  (∀ s : State, State.hostRun 0 s = .next s.runResult) ∧
  (∀ (fuel : Nat) (s : State) (r : RunResult), 0 < fuel → State.hostRun fuel s = .next r →
    ∃ n t, 0 < n ∧ n ≤ fuel ∧ s.RunsTo n t ∧ (n = fuel ∨ t.status ≠ .running) ∧ r = t.runResult) ∧
  (∀ (fuel n : Nat) (s t : State), 0 < n → n ≤ fuel → s.RunsTo n t → (n = fuel ∨ t.status ≠ .running) →
    State.hostRun fuel s = .next t.runResult) ∧
  ∀ t : State,
    (t.runResult = .success t ↔ t.status = .halted) ∧
    (∀ r, t.runResult = .failure r t ↔ t.status = .faulted r) ∧
    (t.runResult = .notEnded t ↔ t.status = .running)

/-- The attach request (spec/60_exceptions.md R241, R207, R242): once, before the first step; a second one faults with
nothing executed; after a step it is refused (D28). Which of the two a claimed engine that has started meets is the model's
choice (log 21): it faults if it is Running and is refused if it has stopped. -/
def Obligations.AttachOnceBeforeStart : Prop :=
  ∀ s : State,
    (s.claimed = false → s.started = false →
      s.attach = .next { s with claimed := true, tmode := .channel, inq := [], inOpen := true, outq := [] }) ∧
    (s.claimed = true → s.started = false ∨ s.status = .running →
      s.attach = .next (s.faultedBy ⟨.doubleTransportClaim, .nothing⟩)) ∧
    (s.claimed = true → s.started = true → s.status ≠ .running → s.attach = .refused .attachAfterStart) ∧
    (s.claimed = false → s.started = true → s.attach = .refused .attachAfterStart)

/-- "Inspect memory" returns the cells `0 .. N-1`; "Inspect a single address" returns `MemRead` of any address, 0 for a
never-written one; neither depends on `ip`, `rb` or `ext`, and an Input that waits has changed nothing they show
(spec/60_exceptions.md R243). That neither changes anything is their type: they answer a value and no state. -/
def Obligations.InspectShowsDensePrefix : Prop :=
  ∀ s : State,
    s.inspectMemory.length = s.progLen ∧
    (∀ a, a < s.progLen → s.inspectMemory[a]? = some (s.read a)) ∧
    (∀ a, s.getValueAt a = s.read a) ∧
    (∀ a, s.ExtWf → s.progLen ≤ a → a ∉ s.ext → s.getValueAt a = 0) ∧
    (∀ (ip : Nat) (rb : Val) (ext : List Nat),
      { s with ip := ip, rb := rb, ext := ext }.inspectMemory = s.inspectMemory ∧
      ∀ a, { s with ip := ip, rb := rb, ext := ext }.getValueAt a = s.getValueAt a) ∧
    ∀ (d : Operand) (t : State), exec (.input d) s = .next t → t.status = .running → t.ip = s.ip →
      t.inspectMemory = s.inspectMemory ∧ ∀ a, t.getValueAt a = s.getValueAt a

/-- The port inputs decide what an Input with a valid destination does in a step (spec/92_eei_decisions.md D19, in full), on
either transport: with `in_valid` high it stores `in_data` and `in_ready` is high; else with `in_closed` high it faults;
else it holds with `in_ready` low. What a terminal drives is the model's choice (log 26). -/
def Obligations.InputPinsDecideInput : Prop :=
  ∀ (s t : State) (d : Operand) (k : Nat), s.mem.wf → s.status = .running → s.decodeAt s.ip = .ok (.input d, 2) →
    s.dst 1 d = .ok k → s.HasRoom k → step s = .next t →
    (∀ v, s.inputPins.inValid = true → s.inputPins.inData = some v →
      t.status = .running ∧ t.ip = s.ip + 2 ∧ t.read k = v ∧ (portPins s t).inReady = true) ∧
    (s.inputPins.inValid = true → s.inputPins.inData ≠ none) ∧
    (s.inputPins.inValid = false → s.inputPins.inClosed = true → ∃ r, t.status = .faulted r) ∧
    (s.inputPins.inValid = false → s.inputPins.inClosed = false →
      t.status = .running ∧ t.ip = s.ip ∧ t.mem = s.mem ∧ (portPins s t).inReady = false)

/-- The port outputs of a step (spec/92_eei_decisions.md D19, in full), on either transport: `in_ready` exactly when an
Input completed, `out_valid` with the value exactly when an Output did. On the Interactive transport these signals, and
`outq` behind them, are the model's choice (log 26, log 19). -/
def Obligations.PortPinsFollowTheStep : Prop :=
  ∀ s t : State, s.status = .running → step s = .next t →
    ((portPins s t).inReady = true ↔
      ∃ d, s.decodeAt s.ip = .ok (.input d, 2) ∧ t.status = .running ∧ t.ip = s.ip + 2) ∧
    ∀ x, (portPins s t).outData = some x ↔ ∃ a, s.decodeAt s.ip = .ok (.output a, 2) ∧ s.src a = .ok x

/-- `step_en` gates the start of a step and nothing else (spec/92_eei_decisions.md D19, in full): where it is low and no step
is in progress nothing changes; a step in progress goes on whatever it is; and a cycle that steps leaves a step in progress
exactly when an Input with a valid destination found `in_valid` and `in_closed` low. One attempt a cycle, and what a
terminal drives, are the model's choice (log 26). -/
def Obligations.StepEnableGatesOnlyTheStart : Prop :=
  ∀ c : Clocked,
    (c.inProgress = false → c.cycle false = .next c) ∧
    (c.inProgress = true → c.cycle false = c.cycle true) ∧
    ∀ (stepEn : Bool) (c' : Clocked), stepEn = true ∨ c.inProgress = true → c.cycle stepEn = .next c' →
      step c.engine = .next c'.engine ∧
      (c'.inProgress = true ↔
        c.engine.status = .running ∧
        (∃ d k, c.engine.decodeAt c.engine.ip = .ok (.input d, 2) ∧ c.engine.dst 1 d = .ok k) ∧
        c.engine.inputPins.inValid = false ∧ c.engine.inputPins.inClosed = false)

/-! ### Several engines -/

/-- The engines of one system have pairwise different terminal numbers, all below the next one to be given: it holds of a
constructed system, and adding an engine and stepping one keep it. The numbers, and that each engine has its own, are the
model's choice (log 36; spec/10_state.md R34 and spec/42_io.md R148 leave it open). -/
def Obligations.EnginesHaveDistinctTerminals : Prop :=
  (∀ (progs : List (List Val)) (n : Nat), (System.construct progs n).OwnTerminals) ∧
  (∀ (sys : System) (prog : List Val) (setup : Setup), sys.OwnTerminals → (sys.addEngine prog setup).OwnTerminals) ∧
  ∀ (sys sys' : System) (k : Nat), sys.OwnTerminals → sys.stepEngine k = .next sys' → sys'.OwnTerminals

/-- A step of engine `k` changes no other engine, but for values appended to the input queue of the engine it is wired
to (spec/60_exceptions.md R214, R230, R232). Holding a queue once, at its consumer, is the model's (log 24). -/
def Obligations.EngineStepIsIsolated : Prop :=
  ∀ (sys sys' : System) (k j : Nat) (sl : Slot), sys.stepEngine k = .next sys' → j ≠ k → sys.slots[j]? = some sl →
    sys'.links = sys.links ∧ sys'.hostSenders = sys.hostSenders ∧
    ∃ vs, sys'.slots[j]? = some ⟨{ sl.engine with inq := sl.engine.inq ++ vs }, sl.dropped⟩ ∧
      (sys.consumerOf k ≠ some j → vs = [])

/-- FIFO, no loss, no duplication, no reordering, under EVERY schedule (spec/20_memory.md R64 (a), spec/60_exceptions.md
R233): for a queue with one producer `p` and one consumer `c`, what was queued and then sent is what was taken and then is
queued. -/
def Obligations.PipelineKeepsOrder : Prop :=
  ∀ (sys sys' : System) (ks : List Nat) (p c : Nat) (sp sc sc' : Slot), sys.consumerOf p = some c →
    (∀ q, sys.consumerOf q = some c → q = p) → sys.slots[p]? = some sp → sp.engine.outq = [] →
    sys.slots[c]? = some sc → System.runSchedule ks sys = .next sys' → sys'.slots[c]? = some sc' →
    sc.engine.inq ++ System.observeRun p stepSends ks sys =
      System.observeRun c stepTakes ks sys ++ sc'.engine.inq

/-- Dropping an engine closes the queue it sent to, unless the host or another wired engine still sends to it
(spec/60_exceptions.md R245, spec/42_io.md R147), and a dropped engine steps no more. -/
def Obligations.DropClosesDownstream : Prop :=
  ∀ (sys : System) (k c : Nat) (sl : Slot), sys.alive k = true → sys.consumerOf k = some c → c ≠ k →
    sys.slots[c]? = some sl →
    ∃ sys', sys.drop k = .next sys' ∧ sys'.stepEngine k = .refused .engineDropped ∧
      sys'.slots[c]? = some ⟨{ sl.engine with inOpen := sys'.senderExists c }, sl.dropped⟩ ∧
      (c ∉ sys.hostSenders → (∀ l ∈ sys.links, l.consumer = c → l.producer = k) → sys'.senderExists c = false) ∧
      (c ∈ sys.hostSenders → sys'.senderExists c = true)
end

