-- ==== Sys2Proof/Laws/Decode.lean ====
section
/-! SUPPORT. What the parts of the decoder and the encoder answer, once each. -/

namespace Sys2Proof

/-- No two rows of the opcode map share a number (spec/30_encoding.md R84). -/
theorem Opcode.number_injective {a b : Opcode} (h : a.number = b.number) : a = b := by
  cases a <;> cases b <;> first | rfl | (exact absurd h (by decide))

theorem Opcode.number_lt (op : Opcode) : op.number < 100 := by cases op <;> decide

theorem opcodeOf_number (op : Opcode) : opcodeOf op.number = some op := by cases op <;> rfl

/-- Which numbers are opcodes, and whose (spec/30_encoding.md R85). -/
theorem opcodeOf_eq_some {n : Nat} {op : Opcode} : opcodeOf n = some op ↔ n = op.number := by
  constructor
  · intro h
    have hb : (op.number == n) = true := List.find?_some (p := fun o : Opcode => o.number == n) h
    exact (beq_iff_eq.1 hb).symm
  · rintro rfl
    exact opcodeOf_number op

/-- Which numbers are no opcode (spec/30_encoding.md R90). -/
theorem opcodeOf_eq_none {n : Nat} : opcodeOf n = none ↔ ∀ op : Opcode, op.number ≠ n := by
  constructor
  · rintro h op rfl
    rw [opcodeOf_number] at h
    cases h
  · intro h
    cases ho : opcodeOf n with
    | none => rfl
    | some op => exact absurd (opcodeOf_eq_some.1 ho).symm (h op)

theorem Operand.mode_lt (o : Operand) : o.mode < 3 := by cases o <;> simp [Operand.mode]

/-- The mode digit of a form selects that form (spec/30_encoding.md R86). -/
@[simp] theorem operandOf_mode (p : Nat) (o : Operand) : operandOf p o.mode o.raw = .ok o := by cases o <;> rfl

/-- A digit that is accepted is the mode of the operand it makes. -/
theorem operandOf_eq_ok {p digit : Nat} {raw : Val} {o : Operand} (h : operandOf p digit raw = .ok o) :
    o.mode = digit ∧ o.raw = raw := by
  match digit, h with
  | 0, h => cases h; exact ⟨rfl, rfl⟩
  | 1, h => cases h; exact ⟨rfl, rfl⟩
  | 2, h => cases h; exact ⟨rfl, rfl⟩
  | _ + 3, h => cases h

/-- Digits 3 and above are refused, naming the parameter (spec/30_encoding.md R91). -/
theorem operandOf_bad {p digit : Nat} (raw : Val) (h : 2 < digit) :
    operandOf p digit raw = .error (.invalidAddressingMode p digit) := by
  match digit, h with
  | _ + 3, _ => rfl

theorem modeDigit_lt (w p : Nat) : modeDigit w p < 10 := Nat.mod_lt _ (by decide)

/-- A non-negative word reads the same as a natural number. -/
theorem val_nonneg_iff (w : Val) : 0 ≤ w.toInt ↔ w.toNat < dataSpace := by
  have h3 := BitVec.toInt_eq_toNat_cond w
  have h4 := w.isLt
  simp only [dataSpace]
  split at h3 <;> omega

end Sys2Proof
end

