-- ==== Sys2Proof/Laws/State.lean ====
section
/-! SUPPORT. What every named update does to every field of the state, one lemma each, and what `read` sees of it. -/

namespace Sys2Proof.Machine

/-! ### `store` -/

@[simp] theorem State.store_mem (s : State) (a : Nat) (v : Val) : (s.store a v).mem = s.mem.write a v := rfl
@[simp] theorem State.store_progLen (s : State) (a : Nat) (v : Val) : (s.store a v).progLen = s.progLen := rfl
@[simp] theorem State.store_ext (s : State) (a : Nat) (v : Val) : (s.store a v).ext = if a < s.progLen then s.ext else extInsert s.ext a := rfl
@[simp] theorem State.store_memCapacity (s : State) (a : Nat) (v : Val) : (s.store a v).memCapacity = s.memCapacity := rfl
@[simp] theorem State.store_rb (s : State) (a : Nat) (v : Val) : (s.store a v).rb = s.rb := rfl
@[simp] theorem State.store_ip (s : State) (a : Nat) (v : Val) : (s.store a v).ip = s.ip := rfl
@[simp] theorem State.store_status (s : State) (a : Nat) (v : Val) : (s.store a v).status = s.status := rfl
@[simp] theorem State.store_tmode (s : State) (a : Nat) (v : Val) : (s.store a v).tmode = s.tmode := rfl
@[simp] theorem State.store_claimed (s : State) (a : Nat) (v : Val) : (s.store a v).claimed = s.claimed := rfl
@[simp] theorem State.store_started (s : State) (a : Nat) (v : Val) : (s.store a v).started = s.started := rfl
@[simp] theorem State.store_inq (s : State) (a : Nat) (v : Val) : (s.store a v).inq = s.inq := rfl
@[simp] theorem State.store_inOpen (s : State) (a : Nat) (v : Val) : (s.store a v).inOpen = s.inOpen := rfl
@[simp] theorem State.store_outq (s : State) (a : Nat) (v : Val) : (s.store a v).outq = s.outq := rfl
@[simp] theorem State.store_prompts (s : State) (a : Nat) (v : Val) : (s.store a v).prompts = s.prompts := rfl
@[simp] theorem State.store_prompted (s : State) (a : Nat) (v : Val) : (s.store a v).prompted = s.prompted := rfl
@[simp] theorem State.store_termDraws (s : State) (a : Nat) (v : Val) : (s.store a v).termDraws = s.termDraws := rfl
@[simp] theorem State.store_terminal (s : State) (a : Nat) (v : Val) : (s.store a v).terminal = s.terminal := rfl
@[simp] theorem State.store_onBadInput (s : State) (a : Nat) (v : Val) : (s.store a v).onBadInput = s.onBadInput := rfl
@[simp] theorem State.store_onEndOfFile (s : State) (a : Nat) (v : Val) : (s.store a v).onEndOfFile = s.onEndOfFile := rfl

/-! ### `advance` -/

@[simp] theorem State.advance_mem (s : State) (n : Nat) : (s.advance n).mem = s.mem := rfl
@[simp] theorem State.advance_progLen (s : State) (n : Nat) : (s.advance n).progLen = s.progLen := rfl
@[simp] theorem State.advance_ext (s : State) (n : Nat) : (s.advance n).ext = s.ext := rfl
@[simp] theorem State.advance_memCapacity (s : State) (n : Nat) : (s.advance n).memCapacity = s.memCapacity := rfl
@[simp] theorem State.advance_rb (s : State) (n : Nat) : (s.advance n).rb = s.rb := rfl
@[simp] theorem State.advance_ip (s : State) (n : Nat) : (s.advance n).ip = s.ip + n := rfl
@[simp] theorem State.advance_status (s : State) (n : Nat) : (s.advance n).status = s.status := rfl
@[simp] theorem State.advance_tmode (s : State) (n : Nat) : (s.advance n).tmode = s.tmode := rfl
@[simp] theorem State.advance_claimed (s : State) (n : Nat) : (s.advance n).claimed = s.claimed := rfl
@[simp] theorem State.advance_started (s : State) (n : Nat) : (s.advance n).started = s.started := rfl
@[simp] theorem State.advance_inq (s : State) (n : Nat) : (s.advance n).inq = s.inq := rfl
@[simp] theorem State.advance_inOpen (s : State) (n : Nat) : (s.advance n).inOpen = s.inOpen := rfl
@[simp] theorem State.advance_outq (s : State) (n : Nat) : (s.advance n).outq = s.outq := rfl
@[simp] theorem State.advance_prompts (s : State) (n : Nat) : (s.advance n).prompts = s.prompts := rfl
@[simp] theorem State.advance_prompted (s : State) (n : Nat) : (s.advance n).prompted = s.prompted := rfl
@[simp] theorem State.advance_termDraws (s : State) (n : Nat) : (s.advance n).termDraws = s.termDraws := rfl
@[simp] theorem State.advance_terminal (s : State) (n : Nat) : (s.advance n).terminal = s.terminal := rfl
@[simp] theorem State.advance_onBadInput (s : State) (n : Nat) : (s.advance n).onBadInput = s.onBadInput := rfl
@[simp] theorem State.advance_onEndOfFile (s : State) (n : Nat) : (s.advance n).onEndOfFile = s.onEndOfFile := rfl
@[simp] theorem State.advance_read (s : State) (n : Nat) (x : Nat) : (s.advance n).read x = s.read x := rfl

/-! ### `jump` -/

@[simp] theorem State.jump_mem (s : State) (a : Nat) : (s.jump a).mem = s.mem := rfl
@[simp] theorem State.jump_progLen (s : State) (a : Nat) : (s.jump a).progLen = s.progLen := rfl
@[simp] theorem State.jump_ext (s : State) (a : Nat) : (s.jump a).ext = s.ext := rfl
@[simp] theorem State.jump_memCapacity (s : State) (a : Nat) : (s.jump a).memCapacity = s.memCapacity := rfl
@[simp] theorem State.jump_rb (s : State) (a : Nat) : (s.jump a).rb = s.rb := rfl
@[simp] theorem State.jump_ip (s : State) (a : Nat) : (s.jump a).ip = a := rfl
@[simp] theorem State.jump_status (s : State) (a : Nat) : (s.jump a).status = s.status := rfl
@[simp] theorem State.jump_tmode (s : State) (a : Nat) : (s.jump a).tmode = s.tmode := rfl
@[simp] theorem State.jump_claimed (s : State) (a : Nat) : (s.jump a).claimed = s.claimed := rfl
@[simp] theorem State.jump_started (s : State) (a : Nat) : (s.jump a).started = s.started := rfl
@[simp] theorem State.jump_inq (s : State) (a : Nat) : (s.jump a).inq = s.inq := rfl
@[simp] theorem State.jump_inOpen (s : State) (a : Nat) : (s.jump a).inOpen = s.inOpen := rfl
@[simp] theorem State.jump_outq (s : State) (a : Nat) : (s.jump a).outq = s.outq := rfl
@[simp] theorem State.jump_prompts (s : State) (a : Nat) : (s.jump a).prompts = s.prompts := rfl
@[simp] theorem State.jump_prompted (s : State) (a : Nat) : (s.jump a).prompted = s.prompted := rfl
@[simp] theorem State.jump_termDraws (s : State) (a : Nat) : (s.jump a).termDraws = s.termDraws := rfl
@[simp] theorem State.jump_terminal (s : State) (a : Nat) : (s.jump a).terminal = s.terminal := rfl
@[simp] theorem State.jump_onBadInput (s : State) (a : Nat) : (s.jump a).onBadInput = s.onBadInput := rfl
@[simp] theorem State.jump_onEndOfFile (s : State) (a : Nat) : (s.jump a).onEndOfFile = s.onEndOfFile := rfl
@[simp] theorem State.jump_read (s : State) (a : Nat) (x : Nat) : (s.jump a).read x = s.read x := rfl

/-! ### `setRb` -/

@[simp] theorem State.setRb_mem (s : State) (v : Val) : (s.setRb v).mem = s.mem := rfl
@[simp] theorem State.setRb_progLen (s : State) (v : Val) : (s.setRb v).progLen = s.progLen := rfl
@[simp] theorem State.setRb_ext (s : State) (v : Val) : (s.setRb v).ext = s.ext := rfl
@[simp] theorem State.setRb_memCapacity (s : State) (v : Val) : (s.setRb v).memCapacity = s.memCapacity := rfl
@[simp] theorem State.setRb_rb (s : State) (v : Val) : (s.setRb v).rb = v := rfl
@[simp] theorem State.setRb_ip (s : State) (v : Val) : (s.setRb v).ip = s.ip := rfl
@[simp] theorem State.setRb_status (s : State) (v : Val) : (s.setRb v).status = s.status := rfl
@[simp] theorem State.setRb_tmode (s : State) (v : Val) : (s.setRb v).tmode = s.tmode := rfl
@[simp] theorem State.setRb_claimed (s : State) (v : Val) : (s.setRb v).claimed = s.claimed := rfl
@[simp] theorem State.setRb_started (s : State) (v : Val) : (s.setRb v).started = s.started := rfl
@[simp] theorem State.setRb_inq (s : State) (v : Val) : (s.setRb v).inq = s.inq := rfl
@[simp] theorem State.setRb_inOpen (s : State) (v : Val) : (s.setRb v).inOpen = s.inOpen := rfl
@[simp] theorem State.setRb_outq (s : State) (v : Val) : (s.setRb v).outq = s.outq := rfl
@[simp] theorem State.setRb_prompts (s : State) (v : Val) : (s.setRb v).prompts = s.prompts := rfl
@[simp] theorem State.setRb_prompted (s : State) (v : Val) : (s.setRb v).prompted = s.prompted := rfl
@[simp] theorem State.setRb_termDraws (s : State) (v : Val) : (s.setRb v).termDraws = s.termDraws := rfl
@[simp] theorem State.setRb_terminal (s : State) (v : Val) : (s.setRb v).terminal = s.terminal := rfl
@[simp] theorem State.setRb_onBadInput (s : State) (v : Val) : (s.setRb v).onBadInput = s.onBadInput := rfl
@[simp] theorem State.setRb_onEndOfFile (s : State) (v : Val) : (s.setRb v).onEndOfFile = s.onEndOfFile := rfl
@[simp] theorem State.setRb_read (s : State) (v : Val) (x : Nat) : (s.setRb v).read x = s.read x := rfl

/-! ### `halt` -/

@[simp] theorem State.halt_mem (s : State) : (s.halt).mem = s.mem := rfl
@[simp] theorem State.halt_progLen (s : State) : (s.halt).progLen = s.progLen := rfl
@[simp] theorem State.halt_ext (s : State) : (s.halt).ext = s.ext := rfl
@[simp] theorem State.halt_memCapacity (s : State) : (s.halt).memCapacity = s.memCapacity := rfl
@[simp] theorem State.halt_rb (s : State) : (s.halt).rb = s.rb := rfl
@[simp] theorem State.halt_ip (s : State) : (s.halt).ip = s.ip := rfl
@[simp] theorem State.halt_status (s : State) : (s.halt).status = .halted := rfl
@[simp] theorem State.halt_tmode (s : State) : (s.halt).tmode = s.tmode := rfl
@[simp] theorem State.halt_claimed (s : State) : (s.halt).claimed = s.claimed := rfl
@[simp] theorem State.halt_started (s : State) : (s.halt).started = s.started := rfl
@[simp] theorem State.halt_inq (s : State) : (s.halt).inq = s.inq := rfl
@[simp] theorem State.halt_inOpen (s : State) : (s.halt).inOpen = s.inOpen := rfl
@[simp] theorem State.halt_outq (s : State) : (s.halt).outq = s.outq := rfl
@[simp] theorem State.halt_prompts (s : State) : (s.halt).prompts = s.prompts := rfl
@[simp] theorem State.halt_prompted (s : State) : (s.halt).prompted = s.prompted := rfl
@[simp] theorem State.halt_termDraws (s : State) : (s.halt).termDraws = s.termDraws := rfl
@[simp] theorem State.halt_terminal (s : State) : (s.halt).terminal = s.terminal := rfl
@[simp] theorem State.halt_onBadInput (s : State) : (s.halt).onBadInput = s.onBadInput := rfl
@[simp] theorem State.halt_onEndOfFile (s : State) : (s.halt).onEndOfFile = s.onEndOfFile := rfl
@[simp] theorem State.halt_read (s : State) (x : Nat) : (s.halt).read x = s.read x := rfl

/-! ### `start` -/

@[simp] theorem State.start_mem (s : State) : (s.start).mem = s.mem := rfl
@[simp] theorem State.start_progLen (s : State) : (s.start).progLen = s.progLen := rfl
@[simp] theorem State.start_ext (s : State) : (s.start).ext = s.ext := rfl
@[simp] theorem State.start_memCapacity (s : State) : (s.start).memCapacity = s.memCapacity := rfl
@[simp] theorem State.start_rb (s : State) : (s.start).rb = s.rb := rfl
@[simp] theorem State.start_ip (s : State) : (s.start).ip = s.ip := rfl
@[simp] theorem State.start_status (s : State) : (s.start).status = s.status := rfl
@[simp] theorem State.start_tmode (s : State) : (s.start).tmode = s.tmode := rfl
@[simp] theorem State.start_claimed (s : State) : (s.start).claimed = s.claimed := rfl
@[simp] theorem State.start_started (s : State) : (s.start).started = true := rfl
@[simp] theorem State.start_inq (s : State) : (s.start).inq = s.inq := rfl
@[simp] theorem State.start_inOpen (s : State) : (s.start).inOpen = s.inOpen := rfl
@[simp] theorem State.start_outq (s : State) : (s.start).outq = s.outq := rfl
@[simp] theorem State.start_prompts (s : State) : (s.start).prompts = s.prompts := rfl
@[simp] theorem State.start_prompted (s : State) : (s.start).prompted = s.prompted := rfl
@[simp] theorem State.start_termDraws (s : State) : (s.start).termDraws = s.termDraws := rfl
@[simp] theorem State.start_terminal (s : State) : (s.start).terminal = s.terminal := rfl
@[simp] theorem State.start_onBadInput (s : State) : (s.start).onBadInput = s.onBadInput := rfl
@[simp] theorem State.start_onEndOfFile (s : State) : (s.start).onEndOfFile = s.onEndOfFile := rfl
@[simp] theorem State.start_read (s : State) (x : Nat) : (s.start).read x = s.read x := rfl

/-! ### `raise` -/

@[simp] theorem State.raise_mem (s : State) (t : Trap) : (s.raise t).mem = s.mem := rfl
@[simp] theorem State.raise_progLen (s : State) (t : Trap) : (s.raise t).progLen = s.progLen := rfl
@[simp] theorem State.raise_ext (s : State) (t : Trap) : (s.raise t).ext = s.ext := rfl
@[simp] theorem State.raise_memCapacity (s : State) (t : Trap) : (s.raise t).memCapacity = s.memCapacity := rfl
@[simp] theorem State.raise_rb (s : State) (t : Trap) : (s.raise t).rb = s.rb := rfl
@[simp] theorem State.raise_ip (s : State) (t : Trap) : (s.raise t).ip = s.ip := rfl
@[simp] theorem State.raise_status (s : State) (t : Trap) : (s.raise t).status = .faulted ⟨t.kind, s.ip, s.read s.ip, t.detail⟩ := rfl
@[simp] theorem State.raise_tmode (s : State) (t : Trap) : (s.raise t).tmode = s.tmode := rfl
@[simp] theorem State.raise_claimed (s : State) (t : Trap) : (s.raise t).claimed = s.claimed := rfl
@[simp] theorem State.raise_started (s : State) (t : Trap) : (s.raise t).started = s.started := rfl
@[simp] theorem State.raise_inq (s : State) (t : Trap) : (s.raise t).inq = s.inq := rfl
@[simp] theorem State.raise_inOpen (s : State) (t : Trap) : (s.raise t).inOpen = s.inOpen := rfl
@[simp] theorem State.raise_outq (s : State) (t : Trap) : (s.raise t).outq = s.outq := rfl
@[simp] theorem State.raise_prompts (s : State) (t : Trap) : (s.raise t).prompts = s.prompts := rfl
@[simp] theorem State.raise_prompted (s : State) (t : Trap) : (s.raise t).prompted = s.prompted := rfl
@[simp] theorem State.raise_termDraws (s : State) (t : Trap) : (s.raise t).termDraws = s.termDraws := rfl
@[simp] theorem State.raise_terminal (s : State) (t : Trap) : (s.raise t).terminal = s.terminal := rfl
@[simp] theorem State.raise_onBadInput (s : State) (t : Trap) : (s.raise t).onBadInput = s.onBadInput := rfl
@[simp] theorem State.raise_onEndOfFile (s : State) (t : Trap) : (s.raise t).onEndOfFile = s.onEndOfFile := rfl
@[simp] theorem State.raise_read (s : State) (t : Trap) (x : Nat) : (s.raise t).read x = s.read x := rfl

/-! ### `setInq` -/

@[simp] theorem State.setInq_mem (s : State) (vs : List Val) : (s.setInq vs).mem = s.mem := rfl
@[simp] theorem State.setInq_progLen (s : State) (vs : List Val) : (s.setInq vs).progLen = s.progLen := rfl
@[simp] theorem State.setInq_ext (s : State) (vs : List Val) : (s.setInq vs).ext = s.ext := rfl
@[simp] theorem State.setInq_memCapacity (s : State) (vs : List Val) : (s.setInq vs).memCapacity = s.memCapacity := rfl
@[simp] theorem State.setInq_rb (s : State) (vs : List Val) : (s.setInq vs).rb = s.rb := rfl
@[simp] theorem State.setInq_ip (s : State) (vs : List Val) : (s.setInq vs).ip = s.ip := rfl
@[simp] theorem State.setInq_status (s : State) (vs : List Val) : (s.setInq vs).status = s.status := rfl
@[simp] theorem State.setInq_tmode (s : State) (vs : List Val) : (s.setInq vs).tmode = s.tmode := rfl
@[simp] theorem State.setInq_claimed (s : State) (vs : List Val) : (s.setInq vs).claimed = s.claimed := rfl
@[simp] theorem State.setInq_started (s : State) (vs : List Val) : (s.setInq vs).started = s.started := rfl
@[simp] theorem State.setInq_inq (s : State) (vs : List Val) : (s.setInq vs).inq = vs := rfl
@[simp] theorem State.setInq_inOpen (s : State) (vs : List Val) : (s.setInq vs).inOpen = s.inOpen := rfl
@[simp] theorem State.setInq_outq (s : State) (vs : List Val) : (s.setInq vs).outq = s.outq := rfl
@[simp] theorem State.setInq_prompts (s : State) (vs : List Val) : (s.setInq vs).prompts = s.prompts := rfl
@[simp] theorem State.setInq_prompted (s : State) (vs : List Val) : (s.setInq vs).prompted = s.prompted := rfl
@[simp] theorem State.setInq_termDraws (s : State) (vs : List Val) : (s.setInq vs).termDraws = s.termDraws := rfl
@[simp] theorem State.setInq_terminal (s : State) (vs : List Val) : (s.setInq vs).terminal = s.terminal := rfl
@[simp] theorem State.setInq_onBadInput (s : State) (vs : List Val) : (s.setInq vs).onBadInput = s.onBadInput := rfl
@[simp] theorem State.setInq_onEndOfFile (s : State) (vs : List Val) : (s.setInq vs).onEndOfFile = s.onEndOfFile := rfl
@[simp] theorem State.setInq_read (s : State) (vs : List Val) (x : Nat) : (s.setInq vs).read x = s.read x := rfl

/-! ### `drawn` -/

@[simp] theorem State.drawn_mem (s : State) : (s.drawn).mem = s.mem := rfl
@[simp] theorem State.drawn_progLen (s : State) : (s.drawn).progLen = s.progLen := rfl
@[simp] theorem State.drawn_ext (s : State) : (s.drawn).ext = s.ext := rfl
@[simp] theorem State.drawn_memCapacity (s : State) : (s.drawn).memCapacity = s.memCapacity := rfl
@[simp] theorem State.drawn_rb (s : State) : (s.drawn).rb = s.rb := rfl
@[simp] theorem State.drawn_ip (s : State) : (s.drawn).ip = s.ip := rfl
@[simp] theorem State.drawn_status (s : State) : (s.drawn).status = s.status := rfl
@[simp] theorem State.drawn_tmode (s : State) : (s.drawn).tmode = s.tmode := rfl
@[simp] theorem State.drawn_claimed (s : State) : (s.drawn).claimed = s.claimed := rfl
@[simp] theorem State.drawn_started (s : State) : (s.drawn).started = s.started := rfl
@[simp] theorem State.drawn_inq (s : State) : (s.drawn).inq = s.inq := rfl
@[simp] theorem State.drawn_inOpen (s : State) : (s.drawn).inOpen = s.inOpen := rfl
@[simp] theorem State.drawn_outq (s : State) : (s.drawn).outq = s.outq := rfl
@[simp] theorem State.drawn_prompts (s : State) : (s.drawn).prompts = s.prompts := rfl
@[simp] theorem State.drawn_prompted (s : State) : (s.drawn).prompted = s.prompted := rfl
@[simp] theorem State.drawn_termDraws (s : State) : (s.drawn).termDraws = s.termDraws + 1 := rfl
@[simp] theorem State.drawn_terminal (s : State) : (s.drawn).terminal = s.terminal := rfl
@[simp] theorem State.drawn_onBadInput (s : State) : (s.drawn).onBadInput = s.onBadInput := rfl
@[simp] theorem State.drawn_onEndOfFile (s : State) : (s.drawn).onEndOfFile = s.onEndOfFile := rfl
@[simp] theorem State.drawn_read (s : State) (x : Nat) : (s.drawn).read x = s.read x := rfl

/-! ### `answered` -/

@[simp] theorem State.answered_mem (s : State) : (s.answered).mem = s.mem := rfl
@[simp] theorem State.answered_progLen (s : State) : (s.answered).progLen = s.progLen := rfl
@[simp] theorem State.answered_ext (s : State) : (s.answered).ext = s.ext := rfl
@[simp] theorem State.answered_memCapacity (s : State) : (s.answered).memCapacity = s.memCapacity := rfl
@[simp] theorem State.answered_rb (s : State) : (s.answered).rb = s.rb := rfl
@[simp] theorem State.answered_ip (s : State) : (s.answered).ip = s.ip := rfl
@[simp] theorem State.answered_status (s : State) : (s.answered).status = s.status := rfl
@[simp] theorem State.answered_tmode (s : State) : (s.answered).tmode = s.tmode := rfl
@[simp] theorem State.answered_claimed (s : State) : (s.answered).claimed = s.claimed := rfl
@[simp] theorem State.answered_started (s : State) : (s.answered).started = s.started := rfl
@[simp] theorem State.answered_inq (s : State) : (s.answered).inq = s.inq := rfl
@[simp] theorem State.answered_inOpen (s : State) : (s.answered).inOpen = s.inOpen := rfl
@[simp] theorem State.answered_outq (s : State) : (s.answered).outq = s.outq := rfl
@[simp] theorem State.answered_prompts (s : State) : (s.answered).prompts = s.prompts := rfl
@[simp] theorem State.answered_prompted (s : State) : (s.answered).prompted = false := rfl
@[simp] theorem State.answered_termDraws (s : State) : (s.answered).termDraws = s.termDraws + 1 := rfl
@[simp] theorem State.answered_terminal (s : State) : (s.answered).terminal = s.terminal := rfl
@[simp] theorem State.answered_onBadInput (s : State) : (s.answered).onBadInput = s.onBadInput := rfl
@[simp] theorem State.answered_onEndOfFile (s : State) : (s.answered).onEndOfFile = s.onEndOfFile := rfl
@[simp] theorem State.answered_read (s : State) (x : Nat) : (s.answered).read x = s.read x := rfl

/-! ### `send` -/

@[simp] theorem State.send_mem (s : State) (v : Val) : (s.send v).mem = s.mem := rfl
@[simp] theorem State.send_progLen (s : State) (v : Val) : (s.send v).progLen = s.progLen := rfl
@[simp] theorem State.send_ext (s : State) (v : Val) : (s.send v).ext = s.ext := rfl
@[simp] theorem State.send_memCapacity (s : State) (v : Val) : (s.send v).memCapacity = s.memCapacity := rfl
@[simp] theorem State.send_rb (s : State) (v : Val) : (s.send v).rb = s.rb := rfl
@[simp] theorem State.send_ip (s : State) (v : Val) : (s.send v).ip = s.ip := rfl
@[simp] theorem State.send_status (s : State) (v : Val) : (s.send v).status = s.status := rfl
@[simp] theorem State.send_tmode (s : State) (v : Val) : (s.send v).tmode = s.tmode := rfl
@[simp] theorem State.send_claimed (s : State) (v : Val) : (s.send v).claimed = s.claimed := rfl
@[simp] theorem State.send_started (s : State) (v : Val) : (s.send v).started = s.started := rfl
@[simp] theorem State.send_inq (s : State) (v : Val) : (s.send v).inq = s.inq := rfl
@[simp] theorem State.send_inOpen (s : State) (v : Val) : (s.send v).inOpen = s.inOpen := rfl
@[simp] theorem State.send_outq (s : State) (v : Val) : (s.send v).outq = s.outq ++ [v] := rfl
@[simp] theorem State.send_prompts (s : State) (v : Val) : (s.send v).prompts = s.prompts := rfl
@[simp] theorem State.send_prompted (s : State) (v : Val) : (s.send v).prompted = s.prompted := rfl
@[simp] theorem State.send_termDraws (s : State) (v : Val) : (s.send v).termDraws = s.termDraws := rfl
@[simp] theorem State.send_terminal (s : State) (v : Val) : (s.send v).terminal = s.terminal := rfl
@[simp] theorem State.send_onBadInput (s : State) (v : Val) : (s.send v).onBadInput = s.onBadInput := rfl
@[simp] theorem State.send_onEndOfFile (s : State) (v : Val) : (s.send v).onEndOfFile = s.onEndOfFile := rfl
@[simp] theorem State.send_read (s : State) (v : Val) (x : Nat) : (s.send v).read x = s.read x := rfl

/-! ### `enqueue` -/

@[simp] theorem State.enqueue_mem (s : State) (vs : List Val) : (s.enqueue vs).mem = s.mem := rfl
@[simp] theorem State.enqueue_progLen (s : State) (vs : List Val) : (s.enqueue vs).progLen = s.progLen := rfl
@[simp] theorem State.enqueue_ext (s : State) (vs : List Val) : (s.enqueue vs).ext = s.ext := rfl
@[simp] theorem State.enqueue_memCapacity (s : State) (vs : List Val) : (s.enqueue vs).memCapacity = s.memCapacity := rfl
@[simp] theorem State.enqueue_rb (s : State) (vs : List Val) : (s.enqueue vs).rb = s.rb := rfl
@[simp] theorem State.enqueue_ip (s : State) (vs : List Val) : (s.enqueue vs).ip = s.ip := rfl
@[simp] theorem State.enqueue_status (s : State) (vs : List Val) : (s.enqueue vs).status = s.status := rfl
@[simp] theorem State.enqueue_tmode (s : State) (vs : List Val) : (s.enqueue vs).tmode = s.tmode := rfl
@[simp] theorem State.enqueue_claimed (s : State) (vs : List Val) : (s.enqueue vs).claimed = s.claimed := rfl
@[simp] theorem State.enqueue_started (s : State) (vs : List Val) : (s.enqueue vs).started = s.started := rfl
@[simp] theorem State.enqueue_inq (s : State) (vs : List Val) : (s.enqueue vs).inq = s.inq ++ vs := rfl
@[simp] theorem State.enqueue_inOpen (s : State) (vs : List Val) : (s.enqueue vs).inOpen = s.inOpen := rfl
@[simp] theorem State.enqueue_outq (s : State) (vs : List Val) : (s.enqueue vs).outq = s.outq := rfl
@[simp] theorem State.enqueue_prompts (s : State) (vs : List Val) : (s.enqueue vs).prompts = s.prompts := rfl
@[simp] theorem State.enqueue_prompted (s : State) (vs : List Val) : (s.enqueue vs).prompted = s.prompted := rfl
@[simp] theorem State.enqueue_termDraws (s : State) (vs : List Val) : (s.enqueue vs).termDraws = s.termDraws := rfl
@[simp] theorem State.enqueue_terminal (s : State) (vs : List Val) : (s.enqueue vs).terminal = s.terminal := rfl
@[simp] theorem State.enqueue_onBadInput (s : State) (vs : List Val) : (s.enqueue vs).onBadInput = s.onBadInput := rfl
@[simp] theorem State.enqueue_onEndOfFile (s : State) (vs : List Val) : (s.enqueue vs).onEndOfFile = s.onEndOfFile := rfl
@[simp] theorem State.enqueue_read (s : State) (vs : List Val) (x : Nat) : (s.enqueue vs).read x = s.read x := rfl

/-! ### `setInOpen` -/

@[simp] theorem State.setInOpen_mem (s : State) (b : Bool) : (s.setInOpen b).mem = s.mem := rfl
@[simp] theorem State.setInOpen_progLen (s : State) (b : Bool) : (s.setInOpen b).progLen = s.progLen := rfl
@[simp] theorem State.setInOpen_ext (s : State) (b : Bool) : (s.setInOpen b).ext = s.ext := rfl
@[simp] theorem State.setInOpen_memCapacity (s : State) (b : Bool) : (s.setInOpen b).memCapacity = s.memCapacity := rfl
@[simp] theorem State.setInOpen_rb (s : State) (b : Bool) : (s.setInOpen b).rb = s.rb := rfl
@[simp] theorem State.setInOpen_ip (s : State) (b : Bool) : (s.setInOpen b).ip = s.ip := rfl
@[simp] theorem State.setInOpen_status (s : State) (b : Bool) : (s.setInOpen b).status = s.status := rfl
@[simp] theorem State.setInOpen_tmode (s : State) (b : Bool) : (s.setInOpen b).tmode = s.tmode := rfl
@[simp] theorem State.setInOpen_claimed (s : State) (b : Bool) : (s.setInOpen b).claimed = s.claimed := rfl
@[simp] theorem State.setInOpen_started (s : State) (b : Bool) : (s.setInOpen b).started = s.started := rfl
@[simp] theorem State.setInOpen_inq (s : State) (b : Bool) : (s.setInOpen b).inq = s.inq := rfl
@[simp] theorem State.setInOpen_inOpen (s : State) (b : Bool) : (s.setInOpen b).inOpen = b := rfl
@[simp] theorem State.setInOpen_outq (s : State) (b : Bool) : (s.setInOpen b).outq = s.outq := rfl
@[simp] theorem State.setInOpen_prompts (s : State) (b : Bool) : (s.setInOpen b).prompts = s.prompts := rfl
@[simp] theorem State.setInOpen_prompted (s : State) (b : Bool) : (s.setInOpen b).prompted = s.prompted := rfl
@[simp] theorem State.setInOpen_termDraws (s : State) (b : Bool) : (s.setInOpen b).termDraws = s.termDraws := rfl
@[simp] theorem State.setInOpen_terminal (s : State) (b : Bool) : (s.setInOpen b).terminal = s.terminal := rfl
@[simp] theorem State.setInOpen_onBadInput (s : State) (b : Bool) : (s.setInOpen b).onBadInput = s.onBadInput := rfl
@[simp] theorem State.setInOpen_onEndOfFile (s : State) (b : Bool) : (s.setInOpen b).onEndOfFile = s.onEndOfFile := rfl
@[simp] theorem State.setInOpen_read (s : State) (b : Bool) (x : Nat) : (s.setInOpen b).read x = s.read x := rfl

/-! ### `setOutq` -/

@[simp] theorem State.setOutq_mem (s : State) (vs : List Val) : (s.setOutq vs).mem = s.mem := rfl
@[simp] theorem State.setOutq_progLen (s : State) (vs : List Val) : (s.setOutq vs).progLen = s.progLen := rfl
@[simp] theorem State.setOutq_ext (s : State) (vs : List Val) : (s.setOutq vs).ext = s.ext := rfl
@[simp] theorem State.setOutq_memCapacity (s : State) (vs : List Val) : (s.setOutq vs).memCapacity = s.memCapacity := rfl
@[simp] theorem State.setOutq_rb (s : State) (vs : List Val) : (s.setOutq vs).rb = s.rb := rfl
@[simp] theorem State.setOutq_ip (s : State) (vs : List Val) : (s.setOutq vs).ip = s.ip := rfl
@[simp] theorem State.setOutq_status (s : State) (vs : List Val) : (s.setOutq vs).status = s.status := rfl
@[simp] theorem State.setOutq_tmode (s : State) (vs : List Val) : (s.setOutq vs).tmode = s.tmode := rfl
@[simp] theorem State.setOutq_claimed (s : State) (vs : List Val) : (s.setOutq vs).claimed = s.claimed := rfl
@[simp] theorem State.setOutq_started (s : State) (vs : List Val) : (s.setOutq vs).started = s.started := rfl
@[simp] theorem State.setOutq_inq (s : State) (vs : List Val) : (s.setOutq vs).inq = s.inq := rfl
@[simp] theorem State.setOutq_inOpen (s : State) (vs : List Val) : (s.setOutq vs).inOpen = s.inOpen := rfl
@[simp] theorem State.setOutq_outq (s : State) (vs : List Val) : (s.setOutq vs).outq = vs := rfl
@[simp] theorem State.setOutq_prompts (s : State) (vs : List Val) : (s.setOutq vs).prompts = s.prompts := rfl
@[simp] theorem State.setOutq_prompted (s : State) (vs : List Val) : (s.setOutq vs).prompted = s.prompted := rfl
@[simp] theorem State.setOutq_termDraws (s : State) (vs : List Val) : (s.setOutq vs).termDraws = s.termDraws := rfl
@[simp] theorem State.setOutq_terminal (s : State) (vs : List Val) : (s.setOutq vs).terminal = s.terminal := rfl
@[simp] theorem State.setOutq_onBadInput (s : State) (vs : List Val) : (s.setOutq vs).onBadInput = s.onBadInput := rfl
@[simp] theorem State.setOutq_onEndOfFile (s : State) (vs : List Val) : (s.setOutq vs).onEndOfFile = s.onEndOfFile := rfl
@[simp] theorem State.setOutq_read (s : State) (vs : List Val) (x : Nat) : (s.setOutq vs).read x = s.read x := rfl

/-! ### `toChannel` -/

@[simp] theorem State.toChannel_mem (s : State) : (s.toChannel).mem = s.mem := rfl
@[simp] theorem State.toChannel_progLen (s : State) : (s.toChannel).progLen = s.progLen := rfl
@[simp] theorem State.toChannel_ext (s : State) : (s.toChannel).ext = s.ext := rfl
@[simp] theorem State.toChannel_memCapacity (s : State) : (s.toChannel).memCapacity = s.memCapacity := rfl
@[simp] theorem State.toChannel_rb (s : State) : (s.toChannel).rb = s.rb := rfl
@[simp] theorem State.toChannel_ip (s : State) : (s.toChannel).ip = s.ip := rfl
@[simp] theorem State.toChannel_status (s : State) : (s.toChannel).status = s.status := rfl
@[simp] theorem State.toChannel_tmode (s : State) : (s.toChannel).tmode = .channel := rfl
@[simp] theorem State.toChannel_claimed (s : State) : (s.toChannel).claimed = true := rfl
@[simp] theorem State.toChannel_started (s : State) : (s.toChannel).started = s.started := rfl
@[simp] theorem State.toChannel_inq (s : State) : (s.toChannel).inq = [] := rfl
@[simp] theorem State.toChannel_inOpen (s : State) : (s.toChannel).inOpen = true := rfl
@[simp] theorem State.toChannel_outq (s : State) : (s.toChannel).outq = [] := rfl
@[simp] theorem State.toChannel_prompts (s : State) : (s.toChannel).prompts = s.prompts := rfl
@[simp] theorem State.toChannel_prompted (s : State) : (s.toChannel).prompted = s.prompted := rfl
@[simp] theorem State.toChannel_termDraws (s : State) : (s.toChannel).termDraws = s.termDraws := rfl
@[simp] theorem State.toChannel_terminal (s : State) : (s.toChannel).terminal = s.terminal := rfl
@[simp] theorem State.toChannel_onBadInput (s : State) : (s.toChannel).onBadInput = s.onBadInput := rfl
@[simp] theorem State.toChannel_onEndOfFile (s : State) : (s.toChannel).onEndOfFile = s.onEndOfFile := rfl
@[simp] theorem State.toChannel_read (s : State) (x : Nat) : (s.toChannel).read x = s.read x := rfl

/-! ### `showPrompt`, which does nothing on a channel -/

@[simp] theorem State.showPrompt_channel (s : State) (h : s.tmode = .channel) : s.showPrompt = s := by
  simp [State.showPrompt, h]

theorem State.showPrompt_interactive (s : State) (h : s.tmode = .interactive) :
    s.showPrompt =
      if s.prompted then s else { s with prompts := s.prompts ++ [s.outq.length], prompted := true } := by
  simp [State.showPrompt, h]

/-- On the terminal the Input's prompt has been shown. -/
theorem State.showPrompt_prompted (s : State) (h : s.tmode = .interactive) : s.showPrompt.prompted = true := by
  rw [State.showPrompt_interactive s h]
  split <;> simp_all

/-- Only the prompt fields change. -/
theorem State.showPrompt_eq (s : State) :
    s.showPrompt = { s with prompts := s.showPrompt.prompts, prompted := s.showPrompt.prompted } := by
  unfold State.showPrompt
  split
  · rfl
  · split <;> rfl

@[simp] theorem State.showPrompt_mem (s : State) : s.showPrompt.mem = s.mem := by rw [State.showPrompt_eq]
@[simp] theorem State.showPrompt_progLen (s : State) : s.showPrompt.progLen = s.progLen := by rw [State.showPrompt_eq]
@[simp] theorem State.showPrompt_ext (s : State) : s.showPrompt.ext = s.ext := by rw [State.showPrompt_eq]
@[simp] theorem State.showPrompt_memCapacity (s : State) : s.showPrompt.memCapacity = s.memCapacity := by rw [State.showPrompt_eq]
@[simp] theorem State.showPrompt_rb (s : State) : s.showPrompt.rb = s.rb := by rw [State.showPrompt_eq]
@[simp] theorem State.showPrompt_ip (s : State) : s.showPrompt.ip = s.ip := by rw [State.showPrompt_eq]
@[simp] theorem State.showPrompt_status (s : State) : s.showPrompt.status = s.status := by rw [State.showPrompt_eq]
@[simp] theorem State.showPrompt_tmode (s : State) : s.showPrompt.tmode = s.tmode := by rw [State.showPrompt_eq]
@[simp] theorem State.showPrompt_claimed (s : State) : s.showPrompt.claimed = s.claimed := by rw [State.showPrompt_eq]
@[simp] theorem State.showPrompt_started (s : State) : s.showPrompt.started = s.started := by rw [State.showPrompt_eq]
@[simp] theorem State.showPrompt_inq (s : State) : s.showPrompt.inq = s.inq := by rw [State.showPrompt_eq]
@[simp] theorem State.showPrompt_inOpen (s : State) : s.showPrompt.inOpen = s.inOpen := by rw [State.showPrompt_eq]
@[simp] theorem State.showPrompt_outq (s : State) : s.showPrompt.outq = s.outq := by rw [State.showPrompt_eq]
@[simp] theorem State.showPrompt_termDraws (s : State) : s.showPrompt.termDraws = s.termDraws := by rw [State.showPrompt_eq]
@[simp] theorem State.showPrompt_terminal (s : State) : s.showPrompt.terminal = s.terminal := by rw [State.showPrompt_eq]
@[simp] theorem State.showPrompt_onBadInput (s : State) : s.showPrompt.onBadInput = s.onBadInput := by rw [State.showPrompt_eq]
@[simp] theorem State.showPrompt_onEndOfFile (s : State) : s.showPrompt.onEndOfFile = s.onEndOfFile := by rw [State.showPrompt_eq]
@[simp] theorem State.showPrompt_read (s : State) (x : Nat) : s.showPrompt.read x = s.read x := by
  rw [State.showPrompt_eq]; rfl

/-! ### `isRunning` -/

theorem State.isRunning_iff (s : State) : s.isRunning = true ↔ s.status = .running := by
  unfold State.isRunning
  split <;> simp_all

@[simp] theorem State.raise_isRunning (s : State) (t : Trap) : (s.raise t).isRunning = false := rfl

end Sys2Proof.Machine
end

