-- ==== Sys2Proof/Laws/Memory.lean ====
section
/-! SUPPORT. The laws of main memory: a read after a write, and that every operation keeps the canonical form. -/

namespace Sys2Proof.Machine

/-! ### Reading what was written -/

@[simp] theorem Memory.read_nil (a : Nat) : Memory.read [] a = 0 := rfl

@[simp] theorem Memory.read_cons (c : Nat × Val) (m : Memory) (a : Nat) :
    Memory.read (c :: m) a = if c.1 = a then c.2 else Memory.read m a := rfl

/-- A cell that is not listed reads 0. -/
theorem Memory.read_eq_zero {m : Memory} {a : Nat} (h : ∀ c ∈ m, c.1 ≠ a) : m.read a = 0 := by
  induction m with
  | nil => rfl
  | cons c m ih =>
    simp only [Memory.read_cons, h c (by simp), if_false]
    exact ih fun x hx => h x (by simp [hx])

/-- A cell that does not read 0 is listed. -/
theorem Memory.mem_of_read_ne_zero {m : Memory} {a : Nat} (h : m.read a ≠ 0) : ∃ c ∈ m, c.1 = a := by
  by_contra hn
  exact h (Memory.read_eq_zero fun c hc he => hn ⟨c, hc, he⟩)

theorem Memory.read_cons_same (m : Memory) (a : Nat) (v : Val) (h : ∀ c ∈ m, c.1 ≠ a) :
    (Memory.cons a v m).read a = v := by
  unfold Memory.cons
  split
  · rw [Memory.read_eq_zero h]; simp_all
  · simp

theorem Memory.read_cons_other (m : Memory) {a b : Nat} (v : Val) (h : b ≠ a) :
    (Memory.cons a v m).read b = m.read b := by
  unfold Memory.cons
  split
  · rfl
  · simp [Ne.symm h]

/-- "After `MemWrite(a,1,v)`, `MemRead(a,1) = v`" (spec/20_memory.md R53), on canonical memory. -/
theorem Memory.read_write_same {m : Memory} (hm : m.wf) (a : Nat) (v : Val) : (m.write a v).read a = v := by
  induction m with
  | nil => exact Memory.read_cons_same [] a v (by simp)
  | cons c m ih =>
    obtain ⟨hs, hz⟩ := hm
    have hlt := (List.pairwise_cons.1 hs).1
    simp only [Memory.write]
    split
    · exact Memory.read_cons_same _ a v (by
        intro x hx
        rcases List.mem_cons.1 hx with rfl | hx
        · omega
        · have := hlt x hx; omega)
    · split
      · exact Memory.read_cons_same _ a v (by intro x hx; have := hlt x hx; omega)
      · have hne : c.1 ≠ a := by omega
        simp only [Memory.read_cons, hne, if_false]
        exact ih ⟨(List.pairwise_cons.1 hs).2, fun x hx => hz x (by simp [hx])⟩

/-- "`MemRead(a',1)` is unchanged for every `a' != a`" (spec/20_memory.md R53). -/
theorem Memory.read_write_other (m : Memory) {a b : Nat} (v : Val) (h : b ≠ a) : (m.write a v).read b = m.read b := by
  induction m with
  | nil => exact Memory.read_cons_other [] v h
  | cons c m ih =>
    simp only [Memory.write]
    split
    · exact Memory.read_cons_other _ v h
    · split
      · rw [Memory.read_cons_other _ v h]
        have : c.1 ≠ b := by omega
        simp [this]
      · simp only [Memory.read_cons]
        split
        · rfl
        · exact ih

/-! ### The canonical form -/

theorem Memory.wf_nil : Memory.wf [] := ⟨List.Pairwise.nil, by simp⟩

theorem Memory.mem_cons {a : Nat} {v : Val} {m : Memory} {c : Nat × Val} (h : c ∈ Memory.cons a v m) :
    c = (a, v) ∨ c ∈ m := by
  unfold Memory.cons at h
  split at h
  · exact .inr h
  · exact List.mem_cons.1 h

/-- Every cell of a written memory is an old one or the written one. -/
theorem Memory.mem_write {m : Memory} {a : Nat} {v : Val} {c : Nat × Val} (h : c ∈ m.write a v) :
    c ∈ m ∨ c = (a, v) := by
  induction m with
  | nil => exact .inr ((Memory.mem_cons h).resolve_right (by simp))
  | cons d m ih =>
    simp only [Memory.write] at h
    split at h
    · exact (Memory.mem_cons h).symm
    · split at h
      · rcases Memory.mem_cons h with h | h
        · exact .inr h
        · exact .inl (List.mem_cons_of_mem d h)
      · rcases List.mem_cons.1 h with rfl | h
        · exact .inl (List.mem_cons_self ..)
        · exact (ih h).imp_left (List.mem_cons_of_mem d)

theorem Memory.wf_cons {a : Nat} {v : Val} {m : Memory} (hm : m.wf) (h : ∀ c ∈ m, a < c.1) :
    (Memory.cons a v m).wf := by
  unfold Memory.cons
  split
  · exact hm
  · refine ⟨List.pairwise_cons.2 ⟨h, hm.1⟩, ?_⟩
    intro c hc
    rcases List.mem_cons.1 hc with rfl | hc
    · assumption
    · exact hm.2 c hc

/-- A write keeps the canonical form. -/
theorem Memory.write_wf {m : Memory} (hm : m.wf) (a : Nat) (v : Val) : (m.write a v).wf := by
  induction m with
  | nil => exact Memory.wf_cons Memory.wf_nil (by simp)
  | cons c m ih =>
    obtain ⟨hlt, hs⟩ := List.pairwise_cons.1 hm.1
    have hm' : Memory.wf m := ⟨hs, fun x hx => hm.2 x (by simp [hx])⟩
    simp only [Memory.write]
    split
    · refine Memory.wf_cons hm ?_
      intro x hx
      rcases List.mem_cons.1 hx with rfl | hx
      · assumption
      · have := hlt x hx; omega
    · split
      · refine Memory.wf_cons hm' ?_
        intro x hx
        have := hlt x hx; omega
      · have hw := ih hm'
        refine ⟨List.pairwise_cons.2 ⟨?_, hw.1⟩, ?_⟩
        · intro x hx
          rcases Memory.mem_write hx with hx | rfl
          · exact hlt x hx
          · show c.1 < a
            omega
        · intro x hx
          rcases List.mem_cons.1 hx with rfl | hx
          · exact hm.2 x (by simp)
          · exact hw.2 x hx

/-- Placing a list of cells keeps the canonical form. -/
theorem Memory.writeList_wf {m : Memory} (hm : m.wf) (a : Nat) (vs : List Val) : (m.writeList a vs).wf := by
  induction vs generalizing m a with
  | nil => exact hm
  | cons v vs ih => exact ih (Memory.write_wf hm a v) (a + 1)

/-- A program load keeps the canonical form. -/
theorem loadedMemory_wf {m : Memory} (hm : m.wf) (loads : List (Nat × Val)) : (loadedMemory m loads).wf := by
  induction loads generalizing m with
  | nil => exact hm
  | cons c loads ih => exact ih (Memory.write_wf hm c.1 c.2)

/-- What a list of placed cells reads as. -/
theorem Memory.read_writeList {m : Memory} (hm : m.wf) (a b : Nat) (vs : List Val) :
    (m.writeList a vs).read b = if a ≤ b ∧ b < a + vs.length then vs.getD (b - a) 0 else m.read b := by
  induction vs generalizing m a with
  | nil =>
    have : ¬ (a ≤ b ∧ b < a + 0) := by omega
    simp only [Memory.writeList, List.length_nil, this, if_false]
  | cons v vs ih =>
    rw [Memory.writeList, ih (Memory.write_wf hm a v)]
    by_cases hab : b = a
    · subst hab
      simp [Memory.read_write_same hm]
    · rw [Memory.read_write_other m v hab]
      by_cases h : a + 1 ≤ b ∧ b < a + 1 + vs.length
      · have h2 : a ≤ b ∧ b < a + (v :: vs).length := by simp; omega
        have h3 : b - a = (b - (a + 1)) + 1 := by omega
        rw [if_pos h, if_pos h2, h3, List.getD_cons_succ]
      · have h2 : ¬ (a ≤ b ∧ b < a + (v :: vs).length) := by simp; omega
        rw [if_neg h, if_neg h2]

/-! ### The materialisation set -/

/-- `extInsert` is `ext ∪ {a}` (spec/20_memory.md R53). -/
@[simp] theorem mem_extInsert (e : List Nat) (a b : Nat) : b ∈ extInsert e a ↔ b ∈ e ∨ b = a := by
  induction e with
  | nil => simp [extInsert]
  | cons c e ih =>
    simp only [extInsert]
    split
    · simp; tauto
    · split
      · subst_vars; simp; tauto
      · simp [ih]; tauto

theorem extInsert_rising {e : List Nat} (h : e.Pairwise (· < ·)) (a : Nat) : (extInsert e a).Pairwise (· < ·) := by
  induction e with
  | nil => simp [extInsert]
  | cons c e ih =>
    obtain ⟨hlt, hs⟩ := List.pairwise_cons.1 h
    simp only [extInsert]
    split
    · refine List.pairwise_cons.2 ⟨?_, h⟩
      intro x hx
      rcases List.mem_cons.1 hx with rfl | hx
      · assumption
      · have := hlt x hx; omega
    · split
      · exact h
      · refine List.pairwise_cons.2 ⟨?_, ih hs⟩
        intro x hx
        rcases (mem_extInsert e a x).1 hx with hx | rfl
        · exact hlt x hx
        · omega

theorem extInsert_length_le (e : List Nat) (a : Nat) : (extInsert e a).length ≤ e.length + 1 := by
  induction e with
  | nil => simp [extInsert]
  | cons c e ih =>
    simp only [extInsert]
    split
    · simp
    · split <;> simp_all

/-- An address already materialised adds nothing. -/
theorem extInsert_of_mem {e : List Nat} (h : e.Pairwise (· < ·)) {a : Nat} (ha : a ∈ e) : extInsert e a = e := by
  induction e with
  | nil => simp at ha
  | cons c e ih =>
    obtain ⟨hlt, hs⟩ := List.pairwise_cons.1 h
    simp only [extInsert]
    rcases List.mem_cons.1 ha with rfl | ha
    · simp
    · have := hlt a ha
      rw [if_neg (by omega), if_neg (by omega), ih hs ha]

/-! ### The write with its capacity check -/

/-- Everything `memWrite` can do (spec/20_memory.md R53). -/
theorem State.memWrite_cases (s : State) (a : Nat) (v : Val) :
    (s.roomFor a = true ∧ s.memWrite a v = .ok (s.store a v)) ∨
      (s.roomFor a = false ∧ s.memWrite a v = .error ⟨.memoryExhausted, .address a⟩) := by
  unfold State.memWrite
  cases h : s.roomFor a <;> simp

/-- When a write is allowed (spec/20_memory.md R60). -/
theorem State.roomFor_iff (s : State) (a : Nat) :
    s.roomFor a = true ↔ ∀ n, s.memCapacity = some n → a < s.progLen ∨ a ∈ s.ext ∨ s.ext.length < n := by
  unfold State.roomFor
  split
  · simp_all
  · simp_all [or_assoc]

@[simp] theorem State.store_read_same {s : State} (h : s.mem.wf) (a : Nat) (v : Val) : (s.store a v).read a = v :=
  Memory.read_write_same h a v

theorem State.store_read_other (s : State) {a b : Nat} (v : Val) (h : b ≠ a) : (s.store a v).read b = s.read b :=
  Memory.read_write_other s.mem v h

end Sys2Proof.Machine
end

