-- ==== Sys2Proof/Laws/Operands.lean ====
section
/-! SUPPORT. What the range check, the address conversion and the operand forms answer, once each. -/

namespace Sys2Proof.Machine

/-! ### Values -/

/-- Every value is in range (spec/00_scope.md R9). -/
theorem inRange_toInt (v : Val) : InRange v.toInt := by
  have h1 := BitVec.le_toInt v
  have h2 := @BitVec.toInt_lt 64 v
  simp only [InRange, minInt, maxInt]
  omega

/-- The value of an integer in range is that integer. -/
theorem toInt_ofInt {n : Int} (h : InRange n) : (BitVec.ofInt 64 n).toInt = n := by
  simp only [InRange, minInt, maxInt] at h
  rw [BitVec.toInt_ofInt]
  apply Int.bmod_eq_of_le <;> omega

/-- A value that is not negative is below `2^63` and is its own address. -/
theorem toNat_of_nonneg {v : Val} (h : 0 ≤ v.toInt) : (v.toNat : Int) = v.toInt ∧ v.toNat < dataSpace := by
  have h2 := @BitVec.toInt_lt 64 v
  have h3 := BitVec.toInt_eq_toNat_cond v
  have h4 := v.isLt
  simp only [dataSpace]
  split at h3 <;> omega

/-! ### `chk` -/

/-- Everything `chk` can do (spec/40_execution_cycle.md R120). -/
theorem chk_cases (n : Int) :
    (InRange n ∧ chk n = .ok (BitVec.ofInt 64 n)) ∨ (¬ InRange n ∧ chk n = .error ⟨.arithmeticOverflow, .nothing⟩) := by
  unfold chk
  by_cases h : InRange n
  · exact .inl ⟨h, if_pos h⟩
  · exact .inr ⟨h, if_neg h⟩

theorem chk_of_inRange {n : Int} (h : InRange n) : chk n = .ok (BitVec.ofInt 64 n) := if_pos h

theorem chk_of_not_inRange {n : Int} (h : ¬ InRange n) : chk n = .error ⟨.arithmeticOverflow, .nothing⟩ := if_neg h

/-- What a range check that passes answers: the exact integer. -/
theorem chk_eq_ok {n : Int} {v : Val} (h : chk n = .ok v) : InRange n ∧ v.toInt = n := by
  rcases chk_cases n with ⟨hr, he⟩ | ⟨_, he⟩
  · rw [he] at h
    cases h
    exact ⟨hr, toInt_ofInt hr⟩
  · rw [he] at h; cases h

/-! ### `toAddr` -/

/-- Everything `toAddr` can do (spec/20_memory.md R56). -/
theorem toAddr_cases (v : Val) :
    (0 ≤ v.toInt ∧ toAddr v = .ok v.toNat) ∨ (v.toInt < 0 ∧ toAddr v = .error ⟨.negativeAddress, .value v⟩) := by
  unfold toAddr
  by_cases h : v.toInt < 0
  · exact .inr ⟨h, if_pos h⟩
  · exact .inl ⟨by omega, if_neg h⟩

/-- An address a value forms is below `2^63` (spec/20_memory.md R56). -/
theorem toAddr_eq_ok {v : Val} {a : Nat} (h : toAddr v = .ok a) : (a : Int) = v.toInt ∧ a < dataSpace := by
  rcases toAddr_cases v with ⟨hn, he⟩ | ⟨_, he⟩
  · rw [he] at h
    cases h
    exact toNat_of_nonneg hn
  · rw [he] at h; cases h

/-! ### Relative addresses -/

/-- Everything a Relative operand's address can be (spec/20_memory.md R54, R55): overflow, then sign. -/
theorem State.relativeAddr_cases (s : State) (raw : Val) :
    (¬ InRange (s.rb.toInt + raw.toInt) ∧ s.relativeAddr raw = .error ⟨.arithmeticOverflow, .nothing⟩) ∨
    (InRange (s.rb.toInt + raw.toInt) ∧ s.rb.toInt + raw.toInt < 0 ∧
      s.relativeAddr raw = .error ⟨.negativeAddress, .value (BitVec.ofInt 64 (s.rb.toInt + raw.toInt))⟩) ∨
    (InRange (s.rb.toInt + raw.toInt) ∧ 0 ≤ s.rb.toInt + raw.toInt ∧
      s.relativeAddr raw = .ok (s.rb.toInt + raw.toInt).toNat) := by
  by_cases h : InRange (s.rb.toInt + raw.toInt)
  · right
    have hc := chk_of_inRange h
    have hv := toInt_ofInt h
    rcases toAddr_cases (BitVec.ofInt 64 (s.rb.toInt + raw.toInt)) with ⟨hn, he⟩ | ⟨hn, he⟩
    · right
      have hnn := (toNat_of_nonneg hn).1
      refine ⟨h, by omega, ?_⟩
      simp only [State.relativeAddr, hc, bind, Except.bind, he]
      congr 1
      omega
    · left
      refine ⟨h, by omega, ?_⟩
      simp only [State.relativeAddr, hc, bind, Except.bind, he]
  · left
    refine ⟨h, ?_⟩
    simp only [State.relativeAddr, chk_of_not_inRange h, bind, Except.bind]

theorem State.relativeAddr_lt {s : State} {raw : Val} {a : Nat} (h : s.relativeAddr raw = .ok a) : a < dataSpace := by
  rcases s.relativeAddr_cases raw with ⟨_, he⟩ | ⟨_, _, he⟩ | ⟨hr, hn, he⟩
  · rw [he] at h; cases h
  · rw [he] at h; cases h
  · rw [he] at h
    cases h
    simp only [InRange, maxInt, dataSpace] at *
    omega

/-- A destination is an address below `2^63` (spec/20_memory.md R61). -/
theorem State.dst_lt {s : State} {p : Nat} {o : Operand} {k : Nat} (h : s.dst p o = .ok k) : k < dataSpace := by
  cases o with
  | position raw => exact (toAddr_eq_ok h).2
  | immediate raw => cases h
  | relative raw => exact State.relativeAddr_lt h

/-! ### Operands read only `rb` and memory (spec/40_execution_cycle.md R115, R116) -/

theorem State.relativeAddr_congr {s t : State} (h : s.rb = t.rb) (raw : Val) :
    s.relativeAddr raw = t.relativeAddr raw := by
  simp only [State.relativeAddr, h]

theorem State.src_congr {s t : State} (hr : s.rb = t.rb) (hm : s.mem = t.mem) (o : Operand) : s.src o = t.src o := by
  cases o <;> simp only [State.src, State.read, hm, State.relativeAddr_congr hr]

theorem State.dst_congr {s t : State} (hr : s.rb = t.rb) (p : Nat) (o : Operand) : s.dst p o = t.dst p o := by
  cases o <;> simp only [State.dst, State.relativeAddr_congr hr]

@[simp] theorem State.src_immediate (s : State) (v : Val) : s.src (.immediate v) = .ok v := rfl

@[simp] theorem State.dst_immediate (s : State) (p : Nat) (v : Val) :
    s.dst p (.immediate v) = .error ⟨.invalidWriteTarget, .param p⟩ := rfl

/-! ### Comparisons -/

theorem lessThanVal_eq (a b : Val) : lessThanVal a b = if a.toInt < b.toInt then 1 else 0 := by
  unfold lessThanVal truthVal
  by_cases h : a.toInt < b.toInt <;> simp [h]

theorem equalsVal_eq (a b : Val) : equalsVal a b = if a = b then 1 else 0 := by
  unfold equalsVal truthVal
  by_cases h : a = b
  · simp [h]
  · have : a.toInt ≠ b.toInt := fun he => h (BitVec.eq_of_toInt_eq he)
    simp [h, this]

theorem isTrueVal_iff (a : Val) : isTrueVal a = true ↔ a ≠ 0 := by
  unfold isTrueVal
  constructor
  · rintro h rfl
    simp at h
  · intro h
    have : a.toInt ≠ 0 := fun he => h (BitVec.eq_of_toInt_eq (by simpa using he))
    simpa using this

end Sys2Proof.Machine
end

