-- ==== Sys2Proof/Laws/Exec.lean ====
section
/-! SUPPORT. Everything each shape of instruction can do, said once, and with it everything `exec` and `step` can do. -/

namespace Sys2Proof.Machine

/-! ### The commit -/

@[simp] theorem commit_ok (s t : State) : commit s (.ok t) = .next t := rfl

@[simp] theorem commit_error (s : State) (e : Trap) : commit s (.error e) = .next (s.raise e) := rfl

/-! ### Three operands -/

/-- A three-operand instruction whose checks all pass. -/
theorem threeOperand_next {op : Val → Val → Except Trap Val} {a b d : Operand} {s : State} {x y r : Val} {k : Nat}
    (ha : s.src a = .ok x) (hb : s.src b = .ok y) (hd : s.dst 3 d = .ok k) (hr : op x y = .ok r)
    (hk : s.roomFor k = true) : threeOperand op a b d s = .next ((s.store k r).advance 4) := by
  simp [threeOperand, ha, hb, hd, hr, State.memWrite, hk, bind, Except.bind, pure, Except.pure]

/-- Everything a three-operand instruction can do. -/
theorem threeOperand_cases {op : Val → Val → Except Trap Val} {a b d : Operand} {s t : State}
    (h : threeOperand op a b d s = .next t) :
    (∃ e, t = s.raise e) ∨
      ∃ x y k r, s.src a = .ok x ∧ s.src b = .ok y ∧ s.dst 3 d = .ok k ∧ op x y = .ok r ∧ s.roomFor k = true ∧
        t = (s.store k r).advance 4 := by
  unfold threeOperand at h
  cases ha : s.src a with
  | error e => exact .inl ⟨e, by simp [ha, bind, Except.bind] at h; exact h.symm⟩
  | ok x =>
  cases hb : s.src b with
  | error e => exact .inl ⟨e, by simp [ha, hb, bind, Except.bind] at h; exact h.symm⟩
  | ok y =>
  cases hd : s.dst 3 d with
  | error e => exact .inl ⟨e, by simp [ha, hb, hd, bind, Except.bind] at h; exact h.symm⟩
  | ok k =>
  cases hr : op x y with
  | error e => exact .inl ⟨e, by simp [ha, hb, hd, hr, bind, Except.bind] at h; exact h.symm⟩
  | ok r =>
  rcases s.memWrite_cases k r with ⟨hk, hw⟩ | ⟨_, hw⟩
  · exact .inr ⟨x, y, k, r, rfl, rfl, rfl, hr, hk,
      by simp [ha, hb, hd, hr, hw, bind, Except.bind, pure, Except.pure] at h; exact h.symm⟩
  · exact .inl ⟨_, by simp [ha, hb, hd, hr, hw, bind, Except.bind] at h; exact h.symm⟩

/-! ### Conditional jumps -/

theorem jumpWhen_next {cond : Val → Bool} {a b : Operand} {s : State} {x y : Val} {t : Nat}
    (ha : s.src a = .ok x) (hb : s.src b = .ok y) (ht : toAddr y = .ok t) :
    jumpWhen cond a b s = .next (if cond x then s.jump t else s.advance 3) := by
  simp [jumpWhen, ha, hb, ht, bind, Except.bind, pure, Except.pure]

/-- Everything a conditional jump can do. -/
theorem jumpWhen_cases {cond : Val → Bool} {a b : Operand} {s t : State} (h : jumpWhen cond a b s = .next t) :
    (∃ e, t = s.raise e) ∨
      ∃ x y k, s.src a = .ok x ∧ s.src b = .ok y ∧ toAddr y = .ok k ∧
        t = if cond x then s.jump k else s.advance 3 := by
  unfold jumpWhen at h
  cases ha : s.src a with
  | error e => exact .inl ⟨e, by simp [ha, bind, Except.bind] at h; exact h.symm⟩
  | ok x =>
  cases hb : s.src b with
  | error e => exact .inl ⟨e, by simp [ha, hb, bind, Except.bind] at h; exact h.symm⟩
  | ok y =>
  cases ht : toAddr y with
  | error e => exact .inl ⟨e, by simp [ha, hb, ht, bind, Except.bind] at h; exact h.symm⟩
  | ok k =>
  exact .inr ⟨x, y, k, rfl, rfl, ht, by simp [ha, hb, ht, bind, Except.bind, pure, Except.pure] at h; exact h.symm⟩

/-! ### Output and AdjustRelativeBase -/

theorem execOutput_next {a : Operand} {s : State} {x : Val} (ha : s.src a = .ok x) :
    execOutput a s = .next ((s.send x).advance 2) := by
  simp [execOutput, ha, bind, Except.bind, pure, Except.pure]

/-- Everything Output can do. -/
theorem execOutput_cases {a : Operand} {s t : State} (h : execOutput a s = .next t) :
    (∃ e, t = s.raise e) ∨ ∃ x, s.src a = .ok x ∧ t = (s.send x).advance 2 := by
  cases ha : s.src a with
  | error e => exact .inl ⟨e, by simp [execOutput, ha, bind, Except.bind] at h; exact h.symm⟩
  | ok x => rw [execOutput_next ha] at h; cases h; exact .inr ⟨x, rfl, rfl⟩

theorem execAdjustRelativeBase_next {a : Operand} {s : State} {x : Val} (ha : s.src a = .ok x)
    (hr : InRange (s.rb.toInt + x.toInt)) :
    execAdjustRelativeBase a s = .next ((s.setRb (BitVec.ofInt 64 (s.rb.toInt + x.toInt))).advance 2) := by
  simp [execAdjustRelativeBase, ha, chk_of_inRange hr, bind, Except.bind, pure, Except.pure]

/-- Everything AdjustRelativeBase can do. -/
theorem execAdjustRelativeBase_cases {a : Operand} {s t : State} (h : execAdjustRelativeBase a s = .next t) :
    (∃ e, t = s.raise e) ∨
      ∃ x, s.src a = .ok x ∧ InRange (s.rb.toInt + x.toInt) ∧
        t = (s.setRb (BitVec.ofInt 64 (s.rb.toInt + x.toInt))).advance 2 := by
  cases ha : s.src a with
  | error e => exact .inl ⟨e, by simp [execAdjustRelativeBase, ha, bind, Except.bind] at h; exact h.symm⟩
  | ok x =>
    by_cases hr : InRange (s.rb.toInt + x.toInt)
    · rw [execAdjustRelativeBase_next ha hr] at h; cases h; exact .inr ⟨x, rfl, hr, rfl⟩
    · exact .inl ⟨_, by
        simp [execAdjustRelativeBase, ha, chk_of_not_inRange hr, bind, Except.bind] at h; exact h.symm⟩

/-! ### Input -/

/-- Everything a receive can do: it changes nothing but the input queue or the terminal's own fields. -/
theorem State.recv_value {s s' : State} {v : Val} (h : s.recv = .value v s') :
    s' = { s with inq := s'.inq, prompted := s'.prompted, termDraws := s'.termDraws } := by
  unfold State.recv at h
  split at h
  · unfold State.recvChannel at h
    split at h
    · cases h; rfl
    · split at h <;> cases h
  · unfold State.recvTerminal at h
    split at h <;> cases h
    rfl

theorem State.recv_blocked {s s' : State} (h : s.recv = .blocked s') : s' = { s with termDraws := s'.termDraws } := by
  unfold State.recv at h
  split at h
  · unfold State.recvChannel at h
    split at h
    · cases h
    · split at h <;> cases h
      rfl
  · unfold State.recvTerminal at h
    split at h <;> cases h
    rfl

/-- Everything Input can do. -/
theorem execInput_cases {d : Operand} {s t : State} (h : execInput d s = .next t) :
    (∃ e, s.dst 1 d = .error e ∧ t = s.raise e) ∨
      ∃ k, s.dst 1 d = .ok k ∧
        ((∃ e, t = s.showPrompt.raise e) ∨
          (∃ v s', s.showPrompt.recv = .value v s' ∧ s'.roomFor k = true ∧ t = (s'.store k v).advance 2) ∨
          s.showPrompt.recv = .blocked t) := by
  unfold execInput at h
  cases hd : s.dst 1 d with
  | error e => simp only [hd] at h; cases h; exact .inl ⟨e, rfl, rfl⟩
  | ok k =>
    refine .inr ⟨k, rfl, ?_⟩
    simp only [hd] at h
    unfold State.inputTo at h
    cases hr : s.showPrompt.recv with
    | value v s' =>
      simp only [hr] at h
      rcases s'.memWrite_cases k v with ⟨hk, hw⟩ | ⟨_, hw⟩
      · refine .inr (.inl ⟨v, s', rfl, hk, ?_⟩)
        simp [hw, bind, Except.bind, pure, Except.pure, State.settle] at h
        exact h.symm
      · refine .inl ⟨⟨.memoryExhausted, .address k⟩, ?_⟩
        simp [hw, bind, Except.bind, State.settle] at h
        exact h.symm
    | blocked s' => simp only [hr] at h; cases h; exact .inr (.inr rfl)
    | closed e => simp only [hr] at h; cases h; exact .inl ⟨e, rfl⟩

/-- A received value that there is room for is stored. -/
theorem State.inputTo_value {s s' : State} {k : Nat} {v : Val} (h : s.recv = .value v s') (hk : s'.roomFor k = true) :
    s.inputTo k = (s'.store k v).advance 2 := by
  simp [State.inputTo, h, State.memWrite, hk, State.settle, bind, Except.bind, pure, Except.pure]

/-- A received value that there is no room for is not taken. -/
theorem State.inputTo_noRoom {s s' : State} {k : Nat} {v : Val} (h : s.recv = .value v s') (hk : s'.roomFor k = false) :
    s.inputTo k = s.raise ⟨.memoryExhausted, .address k⟩ := by
  simp [State.inputTo, h, State.memWrite, hk, State.settle, bind, Except.bind]

theorem State.inputTo_blocked {s s' : State} {k : Nat} (h : s.recv = .blocked s') : s.inputTo k = s' := by
  simp [State.inputTo, h]

theorem State.inputTo_closed {s : State} {k : Nat} {e : Trap} (h : s.recv = .closed e) : s.inputTo k = s.raise e := by
  simp [State.inputTo, h]

theorem State.recv_interactive {s : State} (h : s.tmode = .interactive) :
    s.recv = s.recvTerminal s.nextEvent := by
  simp [State.recv, h]

/-! What a reply of the terminal gives an Input, whatever the event it answers. -/

theorem State.recvTerminal_value {s : State} {e : TerminalEvent} {v : Val} (h : s.reply e = .value v) :
    s.recvTerminal e = .value v s.answered := by
  simp [State.recvTerminal, h]

theorem State.recvTerminal_retry {s : State} {e : TerminalEvent} (h : s.reply e = .retry) :
    s.recvTerminal e = .blocked s.drawn := by
  simp [State.recvTerminal, h]

theorem State.recvTerminal_fault {s : State} {e : TerminalEvent} {t : Trap} (h : s.reply e = .fault t) :
    s.recvTerminal e = .closed t := by
  simp [State.recvTerminal, h]

/-- Showing the prompt changes neither the next free input nor what it gives. -/
@[simp] theorem State.showPrompt_nextEvent (s : State) : s.showPrompt.nextEvent = s.nextEvent := by
  simp [State.nextEvent]

@[simp] theorem State.showPrompt_reply (s : State) (e : TerminalEvent) : s.showPrompt.reply e = s.reply e := by
  cases e <;> simp [State.reply]

theorem State.recv_channel {s : State} (h : s.tmode = .channel) : s.recv = s.recvChannel := by
  simp [State.recv, h]

theorem execInput_ok {d : Operand} {s : State} {k : Nat} (h : s.dst 1 d = .ok k) :
    execInput d s = .next (s.showPrompt.inputTo k) := by
  simp [execInput, h]

/-- A channel Input with a value queued. -/
theorem execInput_channel_next {d : Operand} {s : State} {k : Nat} {v : Val} {rest : List Val}
    (hm : s.tmode = .channel) (hd : s.dst 1 d = .ok k) (hq : s.inq = v :: rest) (hk : s.roomFor k = true) :
    execInput d s = .next (((s.setInq rest).store k v).advance 2) := by
  have hk' : (s.setInq rest).roomFor k = true := hk
  simp [execInput, hd, State.showPrompt, hm, State.inputTo, State.recv, State.recvChannel, hq, State.memWrite, hk',
    State.settle, bind, Except.bind, pure, Except.pure]

/-! ### Any instruction -/

/-- Everything an instruction can do to the state (spec/40_execution_cycle.md R110). -/
inductive Effect (s : State) : State → Prop where
  | fault (e : Trap) : Effect s (s.raise e)
  | promptedFault (e : Trap) : Effect s (s.showPrompt.raise e)
  | stored (k : Nat) (v : Val) (hk : k < dataSpace) (hr : s.roomFor k = true) : Effect s ((s.store k v).advance 4)
  | received (k : Nat) (v : Val) (s' : State) (h : s.showPrompt.recv = .value v s') (hk : k < dataSpace)
      (hr : s'.roomFor k = true) : Effect s ((s'.store k v).advance 2)
  | waited (s' : State) (h : s.showPrompt.recv = .blocked s') : Effect s s'
  | sent (v : Val) : Effect s ((s.send v).advance 2)
  | jumped (k : Nat) (hk : k < dataSpace) : Effect s (s.jump k)
  | passed : Effect s (s.advance 3)
  | adjusted (v : Val) : Effect s ((s.setRb v).advance 2)
  | halted : Effect s s.halt

theorem threeOperand_effect {op : Val → Val → Except Trap Val} {a b d : Operand} {s t : State}
    (h : threeOperand op a b d s = .next t) : Effect s t := by
  rcases threeOperand_cases h with ⟨e, rfl⟩ | ⟨x, y, k, r, -, -, hd, -, hk, rfl⟩
  · exact .fault e
  · exact .stored k r (State.dst_lt hd) hk

theorem jumpWhen_effect {cond : Val → Bool} {a b : Operand} {s t : State} (h : jumpWhen cond a b s = .next t) :
    Effect s t := by
  rcases jumpWhen_cases h with ⟨e, rfl⟩ | ⟨x, y, k, -, -, hk, rfl⟩
  · exact .fault e
  · split
    · exact .jumped k (toAddr_eq_ok hk).2
    · exact .passed

/-- The one inversion of `exec`. -/
theorem exec_effect {i : Instr} {s t : State} (h : exec i s = .next t) : Effect s t := by
  cases i with
  | add a b d => exact threeOperand_effect h
  | multiply a b d => exact threeOperand_effect h
  | lessThan a b d => exact threeOperand_effect h
  | equals a b d => exact threeOperand_effect h
  | jumpIfTrue a b => exact jumpWhen_effect h
  | jumpIfFalse a b => exact jumpWhen_effect h
  | input d =>
    rcases execInput_cases h with ⟨e, -, rfl⟩ | ⟨k, hd, ⟨e, rfl⟩ | ⟨v, s', hr, hk, rfl⟩ | hb⟩
    · exact .fault e
    · exact .promptedFault e
    · exact .received k v s' hr (State.dst_lt hd) hk
    · exact .waited t hb
  | output a =>
    rcases execOutput_cases h with ⟨e, rfl⟩ | ⟨x, -, rfl⟩
    · exact .fault e
    · exact .sent x
  | adjustRelativeBase a =>
    rcases execAdjustRelativeBase_cases h with ⟨e, rfl⟩ | ⟨x, -, -, rfl⟩
    · exact .fault e
    · exact .adjusted _
  | halt => cases h; exact .halted

/-- Every instruction answers a next state: the spec's faults are taken, none stops the model. -/
theorem exec_next (i : Instr) (s : State) : ∃ t, exec i s = .next t := by
  cases i <;> exact ⟨_, rfl⟩

/-! ### The step -/

/-- Everything a fetch can find. -/
theorem State.fetch_cases (s : State) :
    (s.status ≠ .running ∧ s.fetch = .stopped) ∨
    (s.status = .running ∧ addressSpace ≤ s.ip ∧ s.fetch = .outside) ∨
    (s.status = .running ∧ s.ip < addressSpace ∧ ∃ f, s.decodeAt s.ip = .error f ∧ s.fetch = .trap (decodeTrap f)) ∨
    (s.status = .running ∧ s.ip < addressSpace ∧ ∃ i n, s.decodeAt s.ip = .ok (i, n) ∧ s.fetch = .instr i) := by
  unfold State.fetch
  split
  next hs =>
    right
    split
    next hip => exact .inl ⟨hs, hip, rfl⟩
    next hip =>
      right
      split
      next r hd => exact .inr ⟨hs, by omega, r.1, r.2, hd, rfl⟩
      next f hd => exact .inl ⟨hs, by omega, f, hd, rfl⟩
  next hs => exact .inl ⟨by simp [hs], rfl⟩
  next hs => exact .inl ⟨by simp [hs], rfl⟩

@[simp] theorem State.start_decodeAt (s : State) (ip : Nat) : s.start.decodeAt ip = s.decodeAt ip := rfl

/-- Everything a step that answers a next state can do. -/
theorem step_cases {s t : State} (h : step s = .next t) :
    (s.status ≠ .running ∧ t = s.start) ∨
    (s.status = .running ∧ s.ip < addressSpace ∧ ∃ f, s.decodeAt s.ip = .error f ∧ t = s.start.raise (decodeTrap f)) ∨
    (s.status = .running ∧ s.ip < addressSpace ∧ ∃ i n, s.decodeAt s.ip = .ok (i, n) ∧ exec i s.start = .next t) := by
  unfold step at h
  rcases s.start.fetch_cases with ⟨hs, hf⟩ | ⟨hs, hip, hf⟩ | ⟨hs, hip, f, hd, hf⟩ | ⟨hs, hip, i, n, hd, hf⟩
  · rw [hf] at h; cases h; exact .inl ⟨hs, rfl⟩
  · rw [hf] at h; cases h
  · rw [hf] at h; cases h; exact .inr (.inl ⟨hs, hip, f, hd, rfl⟩)
  · rw [hf] at h; exact .inr (.inr ⟨hs, hip, i, n, hd, h⟩)

/-- A receive blocks exactly while the port inputs show neither a value nor the closure, on either transport. -/
theorem State.recv_blocked_iff_pins (s : State) :
    (∃ s', s.recv = .blocked s') ↔ s.inputPins.inValid = false ∧ s.inputPins.inClosed = false := by
  unfold State.recv State.inputPins
  cases s.tmode
  · simp only [State.recvTerminal]
    cases s.reply s.nextEvent <;> simp
  · simp only [State.recvChannel]
    cases s.inq with
    | nil => by_cases ho : s.inOpen = true <;> simp [ho]
    | cons v rest => simp

/-- When the next attempt to step will block. -/
theorem State.stepBlocks_iff (s : State) :
    s.stepBlocks = true ↔
      ∃ d k s', s.fetch = .instr (.input d) ∧ s.dst 1 d = .ok k ∧ s.recv = .blocked s' := by
  unfold State.stepBlocks
  constructor
  · intro h
    split at h
    next d hf =>
      split at h
      next k hk =>
        split at h
        next => cases h
        next s' hr => exact ⟨d, k, s', hf, hk, hr⟩
        next => cases h
      next => cases h
    next => cases h
  · rintro ⟨d, k, s', hf, hk, hr⟩
    simp [hf, hk, hr]

end Sys2Proof.Machine
end

