-- ==== Sys2Proof/Laws/PerInstr.lean ====
section
/-! SUPPORT. A law of every instruction as it is encoded: the family `EncodedShape`, one lemma per constructor. -/

namespace Sys2Proof.Laws

/-- An instruction takes `1 + arity` cells (spec/30_encoding.md R80, R81), its word is not negative and its two low
digits are its opcode's number. -/
def EncodedShape.Statement (i : Instr) : Prop :=
  (encode i).length = i.size ∧ 0 ≤ i.word.toInt ∧ i.word.toNat % 100 = i.opcode.number

/-- The word of an instruction is the number its digits spell: it never reaches the width of a cell. -/
theorem word_toNat_of_lt {i : Instr} {n : Nat} (hn : i.opcode.number + modesNumber 1 i.operands = n)
    (h : n < 100000) : i.word.toNat = n := by
  unfold Instr.word
  rw [hn, BitVec.toNat_ofNat]
  exact Nat.mod_eq_of_lt (by omega)

theorem encodedShape_of {i : Instr} {n : Nat} (hn : i.opcode.number + modesNumber 1 i.operands = n) (h : n < 100000)
    (hm : n % 100 = i.opcode.number) (hl : i.operands.length = i.opcode.arity) : EncodedShape.Statement i := by
  have hw := word_toNat_of_lt hn h
  refine ⟨?_, ?_, by rw [hw, hm]⟩
  · simp [encode, Instr.size, Opcode.size, hl, Nat.add_comm]
  · rw [val_nonneg_iff, hw]
    simp only [dataSpace]
    omega

theorem encodedShape_three {i : Instr} {o1 o2 o3 : Operand} (ho : i.operands = [o1, o2, o3])
    (ha : i.opcode.arity = 3) : EncodedShape.Statement i := by
  have h1 := o1.mode_lt
  have h2 := o2.mode_lt
  have h3 := o3.mode_lt
  have hn := i.opcode.number_lt
  refine encodedShape_of (n := i.opcode.number + (o1.mode * 100 + (o2.mode * 1000 + o3.mode * 10000))) ?_ ?_ ?_ ?_
  · simp [ho, modesNumber]
  · omega
  · omega
  · simp [ho, ha]

theorem encodedShape_two {i : Instr} {o1 o2 : Operand} (ho : i.operands = [o1, o2]) (ha : i.opcode.arity = 2) :
    EncodedShape.Statement i := by
  have h1 := o1.mode_lt
  have h2 := o2.mode_lt
  have hn := i.opcode.number_lt
  refine encodedShape_of (n := i.opcode.number + (o1.mode * 100 + o2.mode * 1000)) ?_ ?_ ?_ ?_
  · simp [ho, modesNumber]
  · omega
  · omega
  · simp [ho, ha]

theorem encodedShape_one {i : Instr} {o1 : Operand} (ho : i.operands = [o1]) (ha : i.opcode.arity = 1) :
    EncodedShape.Statement i := by
  have h1 := o1.mode_lt
  have hn := i.opcode.number_lt
  refine encodedShape_of (n := i.opcode.number + o1.mode * 100) ?_ ?_ ?_ ?_
  · simp [ho, modesNumber]
  · omega
  · omega
  · simp [ho, ha]

theorem EncodedShape.add (a b d : Operand) : EncodedShape.Statement (.add a b d) := encodedShape_three rfl rfl
theorem EncodedShape.multiply (a b d : Operand) : EncodedShape.Statement (.multiply a b d) := encodedShape_three rfl rfl
theorem EncodedShape.input (d : Operand) : EncodedShape.Statement (.input d) := encodedShape_one rfl rfl
theorem EncodedShape.output (a : Operand) : EncodedShape.Statement (.output a) := encodedShape_one rfl rfl
theorem EncodedShape.jumpIfTrue (a b : Operand) : EncodedShape.Statement (.jumpIfTrue a b) := encodedShape_two rfl rfl
theorem EncodedShape.jumpIfFalse (a b : Operand) : EncodedShape.Statement (.jumpIfFalse a b) := encodedShape_two rfl rfl
theorem EncodedShape.lessThan (a b d : Operand) : EncodedShape.Statement (.lessThan a b d) := encodedShape_three rfl rfl
theorem EncodedShape.equals (a b d : Operand) : EncodedShape.Statement (.equals a b d) := encodedShape_three rfl rfl
theorem EncodedShape.adjustRelativeBase (a : Operand) : EncodedShape.Statement (.adjustRelativeBase a) :=
  encodedShape_one rfl rfl
theorem EncodedShape.halt : EncodedShape.Statement .halt := ⟨by decide, by decide, by decide⟩

end Sys2Proof.Laws
end

