-- ==== Sys2Proof/Laws/Requests.lean ====
section
/-! SUPPORT. Runs of step requests: the step-by-step form of `State.RunsTo`, on which an induction over a run rests. -/

namespace Sys2Proof.Machine

/-- A run of no step ends where it begins. -/
@[simp] theorem State.runsTo_zero (s t : State) : s.RunsTo 0 t ↔ t = s := by
  unfold State.RunsTo
  constructor
  · rintro ⟨h, -⟩
    cases h
    rfl
  · rintro rfl
    exact ⟨rfl, fun m u h0 h1 => by omega⟩

/-- A run of `n + 1` steps is a step and a run of `n`, with the engine running in between. -/
theorem State.runsTo_succ {s t u : State} {n : Nat} (hs : step s = .next t) :
    s.RunsTo (n + 1) u ↔ t.RunsTo n u ∧ (0 < n → t.status = .running) := by
  have hn : ∀ m, s.stepN (m + 1) = t.stepN m := fun m => by simp [State.stepN, hs]
  unfold State.RunsTo
  rw [hn]
  constructor
  · rintro ⟨h, k⟩
    exact ⟨⟨h, fun m v h0 h1 hv => k (m + 1) v (by omega) (by omega) (by rw [hn]; exact hv)⟩,
      fun h0 => k 1 t (by omega) (by omega) (by rw [hn]; rfl)⟩
  · rintro ⟨⟨h, k⟩, g⟩
    refine ⟨h, fun m v h0 h1 hv => ?_⟩
    obtain ⟨m, rfl⟩ : ∃ m', m = m' + 1 := ⟨m - 1, by omega⟩
    rw [hn] at hv
    rcases Nat.eq_zero_or_pos m with rfl | hm
    · cases hv
      exact g (by omega)
    · exact k m v hm (by omega) hv

end Sys2Proof.Machine
end

