-- ==== Sys2Proof/Tests/Slice0.lean ====
section
/-! SUPPORT. The model's own tests: words written out from the encoding tables of spec/30_encoding.md, single steps whose
results are those of spec/95_test_vectors.md, the refusals of WellFormed, and for every statement with hypotheses a concrete
state that meets them. -/

namespace Sys2Proof.Tests

open Sys2Proof Sys2Proof.Machine

/-! ### Helpers -/

/-- The vectors' set-up on a channel: attached, with values queued. -/
def chan (prog inq : List Val) (isOpen : Bool := false) : State :=
  { State.construct prog with tmode := .channel, claimed := true, inq := inq, inOpen := isOpen }

/-- A property of the state a step answers. -/
def after (o : Host.Outcome State Fault Refusal) (p : State → Bool) : Bool :=
  match o with
  | .next t => p t
  | .fault _ => false
  | .refused _ => false

/-- The kind of the fault a state shows. -/
def faultKind (s : State) : Option FaultKind :=
  match s.status with
  | .faulted r => some r.kind
  | .running => none
  | .halted => none

/-- The fixture FX (spec/95_test_vectors.md 2.2) with the instruction under test at cell 2. -/
def fx (cells : List Val) : State :=
  { chan ([109, 30] ++ cells ++ List.replicate (8 - cells.length) 0 ++ [111, 222, -5] ++ List.replicate 27 0 ++
      [333, 44, -6]) [77] with
    rb := 30, ip := 2 }

theorem construct_wf (prog : List Val) : (State.construct prog).mem.wf := Memory.writeList_wf Memory.wf_nil 0 prog

/-! ### WellFormed refuses an Immediate destination (R92) -/

theorem test_wf_add : (Instr.add (.position 1) (.position 2) (.immediate 3)).wellFormed = false := by decide
theorem test_wf_multiply : (Instr.multiply (.position 1) (.position 2) (.immediate 3)).wellFormed = false := by decide
theorem test_wf_input : (Instr.input (.immediate 3)).wellFormed = false := by decide
theorem test_wf_lessThan : (Instr.lessThan (.position 1) (.position 2) (.immediate 3)).wellFormed = false := by decide
theorem test_wf_equals : (Instr.equals (.position 1) (.position 2) (.immediate 3)).wellFormed = false := by decide
theorem test_wf_relative_ok : (Instr.input (.relative (-3))).wellFormed = true := by decide

/-! ### Words written out from the spec's tables (R82, R84; digits C B A and two opcode digits) -/

theorem test_decode_add : decodeList [21101, 7, 8, 0] = .ok (.add (.immediate 7) (.immediate 8) (.relative 0), 4) := by
  decide
theorem test_decode_multiply :
    decodeList [1002, 4, 3, 4] = .ok (.multiply (.position 4) (.immediate 3) (.position 4), 4) := by decide
theorem test_decode_input : decodeList [203, 12] = .ok (.input (.relative 12), 2) := by decide
theorem test_decode_output : decodeList [104, -1] = .ok (.output (.immediate (-1)), 2) := by decide
theorem test_decode_jumpIfTrue : decodeList [2005, 10, 11] = .ok (.jumpIfTrue (.position 10) (.relative 11), 3) := by
  decide
theorem test_decode_jumpIfFalse : decodeList [1006, 100, 14] = .ok (.jumpIfFalse (.position 100) (.immediate 14), 3) := by
  decide
theorem test_decode_lessThan :
    decodeList [207, 10, 11, 12] = .ok (.lessThan (.relative 10) (.position 11) (.position 12), 4) := by decide
theorem test_decode_equals :
    decodeList [20108, 1, 2, 3] = .ok (.equals (.immediate 1) (.position 2) (.relative 3), 4) := by decide
theorem test_decode_adjustRelativeBase : decodeList [209, 0] = .ok (.adjustRelativeBase (.relative 0), 2) := by decide
theorem test_decode_halt : decodeList [99] = .ok (.halt, 1) := by decide
/-- V-DEC-7, V-DEC-9, V-DEC-20: higher digits are ignored. -/
theorem test_decode_higher : decodeList [3099] = .ok (.halt, 1) ∧ decodeList [1103, 5] = .ok (.input (.immediate 5), 2) := by
  decide
/-- V-DEC-11 to V-DEC-16: illegal words at the ends of the ranges. -/
theorem test_decode_illegal :
    decodeList [0] = .error (.unknownOpcode 0) ∧ decodeList [10] = .error (.unknownOpcode 10) ∧
    decodeList [398] = .error (.unknownOpcode 398) ∧ decodeList [-1] = .error (.unknownOpcode (-1)) ∧
    decodeList [-99] = .error (.unknownOpcode (-99)) := by decide
/-- V-DEC-17 to V-DEC-19: bad mode digits, the lowest parameter first. -/
theorem test_decode_badMode :
    decodeList [301] = .error (.invalidAddressingMode 1 3) ∧ decodeList [31101] = .error (.invalidAddressingMode 3 3) ∧
    decodeList [904] = .error (.invalidAddressingMode 1 9) ∧ decodeList [33301] = .error (.invalidAddressingMode 1 3) := by
  decide
theorem test_encode :
    encode (.add (.immediate 7) (.immediate 8) (.relative 0)) = [21101, 7, 8, 0] ∧ encode .halt = [99] ∧
    encode (.output (.position 50)) = [4, 50] := by decide
theorem test_decodeTableWord : decodeTableWord 8 4 = some (.output (.position 0)) ∧ decodeTableWord 8 98 = none := by decide
theorem test_withFetchWord : after (step (State.reset.withFetchWord 8 104)) (fun t => t.outq == [0] && t.ip == 2) = true := by
  decide

/-! ### Single steps, with the results of spec/95_test_vectors.md -/

/-- S1, and V-ADD-10: the Add overwrites its own word and still advances by 4. -/
theorem test_add_own_word :
    after (step (chan [1, 0, 0, 0, 99] [])) (fun t => t.inspectMemory == [2, 0, 0, 0, 99] && t.ip == 4) = true := by decide
/-- V-ADD-4: overflow, with the whole record. -/
theorem test_add_overflow :
    after (step (chan [1101, 9223372036854775807, 1, 0, 99] []))
      (fun t => decide (t.status = .faulted ⟨.arithmeticOverflow, 0, 1101, .nothing⟩ ∧ t.ip = 0 ∧ t.read 0 = 1101)) = true := by
  decide
/-- S2: source and destination are one cell. -/
theorem test_multiply_same_cell : after (step (chan [2, 3, 0, 3, 99] [])) (fun t => t.read 3 == 6 && t.ip == 4) = true := by
  decide
/-- V-MUL-11: the product is exactly `-2^63`. -/
theorem test_multiply_min :
    after (step (chan [1102, -4294967296, 2147483648, 0, 99] [])) (fun t => t.read 0 == -9223372036854775808) = true := by
  decide
/-- V-FX-41: a Relative destination. -/
theorem test_input_relative :
    after (step (fx [203, 12])) (fun t => t.read 42 == 77 && t.inq == [] && t.ip == 4 && t.ext == []) = true := by decide
/-- V-FX-42: an Immediate destination consumes nothing. -/
theorem test_input_immediate :
    after (step (fx [103, 12])) (fun t => faultKind t == some .invalidWriteTarget && t.inq == [77] && t.ip == 2) = true := by
  decide
/-- V-FX-45. -/
theorem test_output_relative : after (step (fx [204, 10])) (fun t => t.outq == [333] && t.ip == 4) = true := by decide
/-- V-FX-51: the address `-1`. -/
theorem test_output_negative :
    after (step (fx [204, -31])) (fun t => decide (t.status = .faulted ⟨.negativeAddress, 2, 204, .value (-1)⟩)) = true := by
  decide
/-- V-FX-28: the target is the content of the cell. -/
theorem test_jumpIfTrue_taken : after (step (fx [5, 10, 11])) (fun t => t.ip == 222) = true := by decide
/-- V-JMP-7: a negative target faults although the jump is not taken. -/
theorem test_jumpIfTrue_eager :
    after (step (chan [1105, 0, -1, 99] [])) (fun t => faultKind t == some .negativeAddress && t.ip == 0) = true := by decide
/-- V-FX-39: a never-written cell is false. -/
theorem test_jumpIfFalse_taken : after (step (fx [2206, 13, 11])) (fun t => t.ip == 44) = true := by decide
/-- V-FX-35. -/
theorem test_jumpIfFalse_not_taken : after (step (fx [1106, 10, 11])) (fun t => t.ip == 5) = true := by decide
/-- V-CMP-6: no subtraction, no overflow. -/
theorem test_lessThan_extremes :
    after (step (chan [1107, -9223372036854775808, 9223372036854775807, 5, 99, -1] [])) (fun t => t.read 5 == 1) = true := by
  decide
/-- V-CMP-5: strict. -/
theorem test_lessThan_strict : after (step (chan [1107, 3, 3, 5, 99, -1] [])) (fun t => t.read 5 == 0) = true := by decide
/-- V-CMP-9. -/
theorem test_equals_true : after (step (chan [8, 5, 6, 7, 99, 4, 4, -1] [])) (fun t => t.read 7 == 1) = true := by decide
/-- V-FX-24. -/
theorem test_equals_false : after (step (fx [22208, 10, 11, 12])) (fun t => t.read 42 == 0 && t.ip == 6) = true := by decide
/-- V-FX-48: the operand uses the old `rb`. -/
theorem test_adjust_relative : after (step (fx [209, 10])) (fun t => t.rb == 363 && t.ip == 4) = true := by decide
/-- V-RB-3, its second step. -/
theorem test_adjust_overflow :
    after (step { chan [109, 9223372036854775807, 109, 1, 99] [] with rb := 9223372036854775807, ip := 2 })
      (fun t => faultKind t == some .arithmeticOverflow && t.rb == 9223372036854775807 && t.ip == 2) = true := by decide
/-- V-HLT-1. -/
theorem test_halt : after (step (chan [99] [])) (fun t => decide (t.status = .halted ∧ t.ip = 0)) = true := by decide
/-- V-IO-2: an Input on an empty open queue changes nothing. -/
theorem test_input_blocks : after (exec (.input (.position 0)) (chan [3, 0] [] true)) (fun t => t == chan [3, 0] [] true) = true := by
  decide
/-- V-ADD-9: a write far beyond the program materialises one cell. -/
theorem test_materialise :
    after (step (chan [1101, 7, 0, 1000000, 99] []))
      (fun t => t.ext == [1000000] && t.read 1000000 == 7 && t.inspectMemory == [1101, 7, 0, 1000000, 99]) = true := by decide
/-- V-PRI-11, its third Add, with `MEM_CAPACITY = 2`. -/
theorem test_memory_exhausted :
    after (exec (.add (.immediate 1) (.immediate 1) (.position 102)) { State.construct [] { memCapacity := some 2 } with ext := [100, 101] })
      (fun t => faultKind t == some .memoryExhausted && t.ext == [100, 101]) = true := by decide
/-- V-HOST-1 and V-HOST-2. -/
theorem test_attach :
    after (chan [99] []).attach (fun t => faultKind t == some .doubleTransportClaim && t.ip == 0) = true ∧
    (match { State.construct [99] with status := .halted, started := true }.attach with
      | .refused .attachAfterStart => true
      | _ => false) = true := by decide

/-- Engines A (Output #11) and B (Input [20]) of P5, wired. -/
def pipe : System :=
  { slots := [⟨chan [104, 11, 99] [] true, false⟩, ⟨{ chan [3, 20, 99] [] true with terminal := 1 }, false⟩],
    links := [⟨0, 1⟩], hostSenders := [], nextTerminal := 2 }

/-- Two constructed engines read from two terminals, and a rebuilt one from a third. -/
theorem test_terminals :
    ((System.construct [[3, 0, 99], [3, 0, 99]]).addEngine [3, 0, 99]).slots.map (fun sl => sl.engine.terminal) =
      [0, 1, 2] := by decide
/-- Engines that ran and were dropped do not stop the wiring of the engines constructed again (log 39). -/
theorem test_wire_again :
    let ran : Slot := ⟨(chan [99] []).start.halt, true⟩
    let sys : System := { pipe with slots := [ran, ran] ++ pipe.slots, links := [] }
    (match sys.wire 2 3 with
      | .next sys' => sys'.consumerOf 2 == some 3
      | _ => false) = true := by decide
/-- A producer dropped before the start leaves its consumer's queue to another one (log 39). -/
theorem test_wire_after_drop :
    let sys : System := { pipe with slots := pipe.slots ++ [⟨chan [104, 5, 99] [] true, false⟩] }
    (match sys.drop 0, sys.wire 2 1 with
      | .next gone, .refused .endpointNotHeld =>
        (match gone.wire 2 1 with
          | .next sys' => sys'.consumerOf 2 == some 1 && sys'.senderExists 1
          | _ => false)
      | _, _ => false) = true := by decide
/-- A receive of the host from an ended consumer's queue: its own sender keeps it from ending (log 24). -/
theorem test_drain_sender :
    let sys : System :=
      { pipe with slots := [⟨(chan [99] []).halt, true⟩, ⟨(chan [99] []).halt, false⟩] }
    (match sys.drain 0, System.drain { sys with hostSenders := [1] } 0 with
      | .next .endOfStream, .next .empty => true
      | _, _ => false) = true := by decide
/-- A line taken on the terminal counts as `in_ready`; a wait does not. -/
theorem test_inReady_terminal :
    (portPins State.reset (State.reset.answered.advance 2)).inReady = true ∧
    (portPins State.reset State.reset.showPrompt.drawn).inReady = false := by decide
/-- V-HOST-2: the late attach is refused; so is a late second one to an engine that has stopped (log 21). -/
theorem test_attach_stopped :
    (match (chan [99] []).start.halt.attach with
      | .refused .attachAfterStart => true
      | _ => false) = true := by decide

/-- P5: what A sends is in B's queue, and A's own queue is empty. -/
theorem test_pipe_output :
    (match pipe.stepEngine 0 with
      | .next sys => decide (sys.slots.map (fun sl => (sl.engine.inq, sl.engine.outq)) = [([], []), ([11], [])])
      | _ => false) = true := by decide
/-- P5, schedule 2: B blocks until A sends. -/
theorem test_pipe_enabled : pipe.enabled 0 = true ∧ pipe.enabled 1 = false ∧ pipe.stuck = false := by decide
/-- Terminal outputs and prompts stand in program order (spec/42_io.md R148). -/
theorem test_screen :
    { State.reset with outq := [5, 6], prompts := [0, 1, 2] }.screen =
      [.prompt, .value 5, .prompt, .value 6, .prompt] := by decide
/-- V-DEC-2: the empty program faults at once. -/
theorem test_reset_step :
    after (step State.reset) (fun t => decide (t.status = .faulted ⟨.unknownOpcode, 0, 0, .word 0⟩)) = true := by decide
theorem test_reset_is_construct : State.construct [] = State.reset := rfl
theorem test_fault_codes :
    (State.reset.raise ⟨.memoryExhausted, .address 5⟩).statusPins = ⟨false, false, true, 8, some 0, some 0⟩ := by decide
theorem test_load_port :
    State.fromLoadPort [(4, 99), (0, 1)] true = (State.construct [1, 0, 0, 0, 99]).toChannel := by decide

/-! ### Witnesses: every statement with hypotheses has a state that meets them -/

theorem witness_CanonicalWordEncodesBack :
    decodeCells 22201 1 2 3 = .ok (.add (.relative 1) (.relative 2) (.relative 3), 4) ∧ (22201 : Val).toNat < 10 ^ (3 + 2) ∧
    decodeCells 99 1 2 3 = .ok (.halt, 1) ∧ (99 : Val).toNat < 10 ^ (0 + 2) := by decide
theorem witness_SizeIsOnePlusArity :
    ∃ r r', decodeCells 100001 0 0 0 = .ok r ∧ decodeCells 22201 7 8 9 = .ok r' ∧
      (100001 : Val).toNat % 100 = (22201 : Val).toNat % 100 := ⟨_, _, rfl, rfl, by decide⟩
theorem witness_DecodeReadsEveryDigit :
    0 ≤ (21002 : Val).toInt ∧ (21002 : Val).toNat % 100 = Opcode.multiply.number ∧
      ∀ p, 1 ≤ p → p ≤ Opcode.multiply.arity → (21002 : Val).toNat / 10 ^ (p + 1) % 10 ≤ 2 := by
  refine ⟨by decide, by decide, ?_⟩
  intro p h1 h2
  have h3 : p ≤ 3 := h2
  interval_cases p <;> decide
theorem witness_LowestBadModeIsReported :
    (0 ≤ (31101 : Val).toInt ∧ (31101 : Val).toNat % 100 = Opcode.add.number ∧
      decodeCells 31101 0 0 0 = .error (.invalidAddressingMode 3 3)) ∧
    (3099 : Val).toNat % 100 = 99 ∧
    (State.construct [33904]).status = .running ∧ (State.construct [33904]).ip < 2 ^ 64 ∧
      (State.construct [33904]).decodeAt 0 = .error (.invalidAddressingMode 1 9) := by decide
theorem witness_HigherDigitsIgnored :
    0 ≤ (99 : Val).toInt ∧ 0 ≤ (1199 : Val).toInt ∧ (99 : Val).toNat % 100 = Opcode.halt.number ∧
      (99 : Val).toNat % 10 ^ (Opcode.halt.arity + 2) = (1199 : Val).toNat % 10 ^ (Opcode.halt.arity + 2) := by decide
/-- The clauses of the operand forms where they meet: `2^63`, `-1` and `0`. -/
theorem witness_operand_boundaries :
    { State.reset with rb := 9223372036854775807 }.src (.relative 1) = .error ⟨.arithmeticOverflow, .nothing⟩ ∧
    { State.reset with rb := -5 }.src (.relative 4) = .error ⟨.negativeAddress, .value (-1)⟩ ∧
    { State.reset with rb := -5 }.dst 3 (.relative 5) = .ok 0 ∧
    { State.reset with rb := 9223372036854775807 }.dst 3 (.relative 0) = .ok 9223372036854775807 ∧
    State.reset.dst 3 (.position (-1)) = .error ⟨.negativeAddress, .value (-1)⟩ := by decide

/-- A state whose sparse extension is full. -/
def full : State := { chan [1, 2] [7] with memCapacity := some 1, ext := [9] }

theorem full_noRoom : ¬ full.HasRoom 5 := by
  rintro (h | h | h)
  · exact absurd h (by decide)
  · exact absurd h (by decide)
  · exact absurd (h 1 rfl) (by decide)
theorem full_room : full.HasRoom 1 ∧ full.HasRoom 9 := ⟨.inl (by decide), .inr (.inl (by decide))⟩

theorem witness_MemWriteStoresOrExhausts :
    full.mem.wf ∧ full.HasRoom 1 ∧ full.HasRoom 9 ∧ ¬ full.HasRoom 5 := ⟨by decide, full_room.1, full_room.2, full_noRoom⟩
theorem reset_ExtWf : State.reset.ExtWf :=
  ⟨by decide, by decide, by decide, fun n h => by cases h⟩
theorem witness_UnmaterialisedReadsZero : State.reset.ExtWf ∧ State.reset.progLen ≤ 0 ∧ 0 ∉ State.reset.ext :=
  ⟨reset_ExtWf, by decide, by decide⟩
/-- The sum is the greatest value. -/
theorem witness_AddStoresExactSum :
    full.mem.wf ∧ full.src (.immediate 9223372036854775806) = .ok 9223372036854775806 ∧ full.src (.position 0) = .ok 1 ∧
      full.dst 3 (.position 9) = .ok 9 ∧
      InRange ((9223372036854775806 : Val).toInt + (1 : Val).toInt) ∧ full.HasRoom 9 :=
  ⟨by decide, by decide, by decide, by decide, by decide, full_room.2⟩
/-- The product is the least value. -/
theorem witness_MultiplyStoresExactProduct :
    full.mem.wf ∧ full.src (.immediate (-4294967296)) = .ok (-4294967296) ∧
      full.src (.immediate 2147483648) = .ok 2147483648 ∧ full.dst 3 (.relative 1) = .ok 1 ∧
      InRange ((-4294967296 : Val).toInt * (2147483648 : Val).toInt) ∧ full.HasRoom 1 :=
  ⟨by decide, by decide, by decide, by decide, by decide, full_room.1⟩
theorem witness_LessThanStoresTruth :
    full.mem.wf ∧ full.src (.immediate (-1)) = .ok (-1) ∧ full.src (.immediate 0) = .ok 0 ∧
      full.dst 3 (.position 1) = .ok 1 ∧ full.HasRoom 1 := ⟨by decide, by decide, by decide, by decide, full_room.1⟩
theorem witness_EqualsStoresTruth :
    full.mem.wf ∧ full.src (.position 1) = .ok 2 ∧ full.src (.immediate 2) = .ok 2 ∧
      full.dst 3 (.position 9) = .ok 9 ∧ full.HasRoom 9 := ⟨by decide, by decide, by decide, by decide, full_room.2⟩
theorem witness_InputStoresOldestQueued :
    full.mem.wf ∧ full.tmode = .channel ∧ full.dst 1 (.position 1) = .ok 1 ∧ full.inq = 7 :: [] ∧ full.HasRoom 1 :=
  ⟨by decide, by decide, by decide, by decide, full_room.1⟩
theorem witness_InputOnEmptyChannelWaitsOrFaults :
    ∃ s s' : State, (s.tmode = .channel ∧ s.dst 1 (.position 1) = .ok 1 ∧ s.inq = [] ∧ s.inOpen = true) ∧
      (s'.tmode = .channel ∧ s'.dst 1 (.position 1) = .ok 1 ∧ s'.inq = [] ∧ s'.inOpen = false) :=
  ⟨chan [3, 1] [] true, chan [3, 1] [] false, by decide, by decide⟩
theorem witness_InputOnTerminalFollowsEvent :
    State.reset.mem.wf ∧ State.reset.tmode = .interactive ∧ State.reset.dst 1 (.position 1) = .ok 1 ∧
      State.reset.HasRoom 1 := ⟨by decide, by decide, by decide, .inr (.inr fun n h => by cases h)⟩
theorem witness_OutputAppendsValue :
    (∃ x, full.src (.position 0) = .ok x) ∧ ∃ e, full.src (.position (-1)) = .error e := ⟨⟨_, rfl⟩, ⟨_, rfl⟩⟩
theorem witness_JumpIfTrueMovesIp :
    full.src (.immediate 0) = .ok 0 ∧ full.src (.immediate (-1)) = .ok (-1) ∧ full.src (.position 50) = .ok 0 ∧
      0 ≤ (0 : Val).toInt := by decide
theorem witness_JumpIfFalseMovesIp :
    full.src (.immediate 0) = .ok 0 ∧ full.src (.immediate (-1)) = .ok (-1) ∧
      full.src (.immediate 9223372036854775807) = .ok 9223372036854775807 ∧
      0 ≤ (9223372036854775807 : Val).toInt := by decide
theorem witness_JumpFaultsEagerly :
    (∃ e, full.src (.position (-1)) = .error e) ∧ full.src (.immediate 0) = .ok 0 ∧
      full.src (.immediate (-1)) = .ok (-1) ∧ (-1 : Val).toInt < 0 := ⟨⟨_, rfl⟩, by decide, by decide, by decide⟩
theorem witness_AdjustRelativeBaseAdds :
    ∃ s : State, s.src (.immediate 0) = .ok 0 ∧ InRange (s.rb.toInt + (0 : Val).toInt) ∧ s.src (.immediate 1) = .ok 1 ∧
      ¬ InRange (s.rb.toInt + (1 : Val).toInt) ∧ ∃ e, s.src (.relative 1) = .error e :=
  ⟨{ State.reset with rb := 9223372036854775807 }, by decide, by decide, by decide, by decide, ⟨_, rfl⟩⟩
theorem witness_ThreeOperandFaultOrder :
    (∃ e, full.src (.position (-1)) = .error e) ∧ full.src (.immediate 0) = .ok 0 ∧
      ∃ e, full.dst 3 (.immediate 0) = .error e := ⟨⟨_, rfl⟩, by decide, ⟨_, rfl⟩⟩
theorem witness_ImmediateDestinationFaultsWhenExecuted :
    (103 : Val) ∈ ([11101, 10002, 10107, 10008, 103] : List Val) ∧ full.src (.position 0) = .ok 1 ∧
      full.src (.immediate (-1)) = .ok (-1) := by decide
theorem witness_ArithmeticOverflowFaults :
    full.src (.immediate 9223372036854775807) = .ok 9223372036854775807 ∧ full.src (.immediate 1) = .ok 1 ∧
      full.dst 3 (.position 0) = .ok 0 ∧ ¬ InRange ((9223372036854775807 : Val).toInt + (1 : Val).toInt) ∧
      full.src (.immediate (-9223372036854775808)) = .ok (-9223372036854775808) ∧ full.src (.immediate (-1)) = .ok (-1) ∧
      ¬ InRange ((-9223372036854775808 : Val).toInt * (-1 : Val).toInt) := by decide
theorem witness_MemoryExhaustedFaults :
    ¬ full.HasRoom 5 ∧ full.src (.immediate 1) = .ok 1 ∧ full.dst 3 (.position 5) = .ok 5 ∧
      InRange ((1 : Val).toInt + (1 : Val).toInt) ∧ InRange ((1 : Val).toInt * (1 : Val).toInt) ∧
      full.dst 1 (.position 5) = .ok 5 ∧ full.tmode = .channel ∧ full.inq = 7 :: [] :=
  ⟨full_noRoom, by decide, by decide, by decide, by decide, by decide, by decide, by decide⟩
theorem witness_InputBadDestinationFaultsAtOnce :
    (∃ e, full.dst 1 (.immediate 0) = .error e) ∧ ∃ e, State.reset.dst 1 (.position (-1)) = .error e :=
  ⟨⟨_, rfl⟩, ⟨_, rfl⟩⟩
theorem witness_FaultIsPrecise :
    full.status = .running ∧ full.tmode = .channel ∧
      exec (.output (.position (-1))) full = .next (full.faultedBy ⟨.negativeAddress, .value (-1)⟩) :=
  ⟨rfl, rfl, rfl⟩
theorem witness_StoppedEngineExecutesNothing :
    State.reset.halt.status ≠ .running ∧ (State.reset.raise ⟨.channelClosed, .nothing⟩).status ≠ .running := by decide
theorem witness_StepRunsDecodedInstruction :
    (chan [109, 5] []).status = .running ∧ (chan [109, 5] []).ip < 2 ^ 64 ∧
      decodeCells ((chan [109, 5] []).read 0) ((chan [109, 5] []).read 1) ((chan [109, 5] []).read 2)
        ((chan [109, 5] []).read 3) = .ok (.adjustRelativeBase (.immediate 5), 2) := by decide
theorem witness_DecodeFaultIsTaken :
    State.reset.status = .running ∧ State.reset.ip < 2 ^ 64 ∧ State.reset.decodeAt 0 = .error (.unknownOpcode 0) ∧
      (State.construct [301]).decodeAt 0 = .error (.invalidAddressingMode 1 3) := by decide
/-- An Add that advances, a jump that is taken to its own address, and an Input that waits. -/
theorem witness_StepAdvancesBySizeAsDecoded :
    after (step (chan [1, 0, 0, 0, 99] [])) (fun t => t.isRunning && t.ip == 4) = true ∧
    after (step (chan [1105, 1, 0] [])) (fun t => t.isRunning && t.ip == 0) = true ∧
    after (step (chan [3, 0] [] true)) (fun t => t.isRunning && t.ip == 0) = true := by decide
/-- P1: the Add at 0 writes over the word at 4. -/
theorem witness_StoreIsSeenByNextFetch :
    let s := State.construct [1, 1, 1, 4, 99, 5, 6, 0, 99]
    s.mem.wf ∧ s.status = .running ∧ s.src (.position 1) = .ok 1 ∧ s.dst 3 (.position 4) = .ok (s.ip + 4) ∧
      (2 : Val).toInt = (1 : Val).toInt + (1 : Val).toInt ∧ s.HasRoom (s.ip + 4) ∧
      after (exec (.add (.position 1) (.position 1) (.position 4)) s) (fun t => t.read t.ip == 2) = true :=
  ⟨by decide, by decide, by decide, by decide, by decide, .inl (by decide), by decide⟩
/-- S3b: the base 20, the offset 5. -/
theorem witness_RelativeOperandUsesNewBase :
    let s := State.construct [109, 20, 204, 5, 99]
    s.status = .running ∧ s.src (.immediate 20) = .ok 20 ∧
      after (exec (.adjustRelativeBase (.immediate 20)) s) (fun t => t.isRunning && t.rb == 20) = true ∧
      0 ≤ s.rb.toInt + (20 : Val).toInt + (5 : Val).toInt ∧
      s.rb.toInt + (20 : Val).toInt + (5 : Val).toInt ≤ 2 ^ 63 - 1 := by decide
theorem witness_RelativeBaseWrittenOnlyByAdjust :
    after (exec (.adjustRelativeBase (.immediate 5)) State.reset) (fun t => t.rb != State.reset.rb) = true := by decide
theorem witness_WritersOfMemoryAndQueues :
    after (exec (.input (.position 5)) (chan [] [7])) (fun t => t.mem != [] && t.ext != [] && t.inq != [7]) = true ∧
    after (exec (.output (.immediate 5)) State.reset) (fun t => t.outq != []) = true := by decide
theorem witness_InstructionsKeepHostRegisters :
    after (exec (.input (.position 5)) (chan [] [7] true)) (fun t => t.claimed && t.inOpen && t.ip == 2) = true := by decide
theorem witness_HaltedOnlyByHalt :
    (chan [99] []).status ≠ .halted ∧ after (step (chan [99] [])) (fun t => decide (t.status = .halted)) = true := by decide
theorem witness_HiddenStateIsUnobservable :
    State.reset.memCapacity = none ∧ after (exec (.add (.immediate 1) (.immediate 1) (.position 5)) State.reset)
      (fun t => t.ext == [5]) = true := by decide
theorem reset_Bounded : State.reset.Bounded := ⟨by decide, by decide, by decide⟩
/-- Reset meets each of the four invariants, and a step from it answers a next state. -/
theorem witness_StepKeepsInvariants :
    State.reset.mem.wf ∧ State.reset.ExtWf ∧ State.reset.Bounded ∧ State.reset.StopRecorded ∧ ∃ t, step State.reset = .next t :=
  ⟨by decide, reset_ExtWf, reset_Bounded, trivial, ⟨_, rfl⟩⟩
/-- A state that fetches at the last address data can have and advances beyond it stays within the bounds. -/
theorem witness_StepKeepsAddressBounds :
    let s : State := { State.reset with ip := 9223372036854775807, mem := [(9223372036854775807, 1107)] }
    s.Bounded ∧ after (step s) (fun t => t.ip == 9223372036854775811) = true :=
  ⟨⟨by decide, by decide, by decide⟩, by decide⟩
theorem witness_StepAlwaysAnswersNext : State.reset.Bounded := reset_Bounded
theorem witness_InputPinsDecideInput :
    (chan [3, 0] [7]).mem.wf ∧ (chan [3, 0] [7]).decodeAt 0 = .ok (.input (.position 0), 2) ∧
      (chan [3, 0] [7]).dst 1 (.position 0) = .ok 0 ∧ (chan [3, 0] [7]).HasRoom 0 ∧
      (chan [3, 0] [7]).inputPins = ⟨true, some 7, true⟩ ∧ (chan [3, 0] []).inputPins = ⟨false, none, true⟩ ∧
      (chan [3, 0] [] true).inputPins = ⟨false, none, false⟩ ∧ ∃ t, step (chan [3, 0] [7]) = .next t :=
  ⟨by decide, by decide, by decide, .inl (by decide), by decide, by decide, by decide, ⟨_, rfl⟩⟩
theorem witness_PortPinsFollowTheStep :
    after (step (chan [3, 0] [7])) (fun t => portPins (chan [3, 0] [7]) t == ⟨true, none⟩) = true ∧
    after (step (chan [104, 5] [])) (fun t => portPins (chan [104, 5] []) t == ⟨false, some 5⟩) = true := by decide
/-- A cycle that starts an Input which blocks, and the cycle after it with `step_en` low and a value queued. -/
theorem witness_StepEnableGatesOnlyTheStart :
    (match Clocked.cycle true ⟨chan [3, 0] [] true, false⟩ with
      | .next c => c.inProgress && c.engine.ip == 0
      | _ => false) = true ∧
    (match Clocked.cycle false ⟨chan [3, 0] [7] true, true⟩ with
      | .next c => !c.inProgress && c.engine.ip == 2
      | _ => false) = true := by decide
theorem witness_EnginesHaveDistinctTerminals :
    pipe.OwnTerminals ∧ ∃ sys', pipe.stepEngine 0 = .next sys' := ⟨⟨by decide, by decide⟩, ⟨_, rfl⟩⟩
theorem witness_ConstructionMeetsInvariants : ([1, 0, 0, 0, 99] : List Val).length ≤ 2 ^ 63 := by decide
theorem witness_RequestsReportStatus :
    (∃ t, (chan [99] []).hostStep = .next (t, false)) ∧ (∃ t, (chan [104, 1] []).hostStep = .next (t, true)) ∧
    (∃ t, State.hostRun 5 (chan [99] []) = .next (.success t)) ∧ (∃ r t, State.hostRun 5 State.reset = .next (.failure r t)) ∧
    (∃ t, (chan [104, 1, 99] []).RunsTo 2 t ∧ t.status ≠ .running) ∧
    ∃ t, State.hostRun 1 (chan [104, 1] []) = .next (.notEnded t) := 
  ⟨⟨_, rfl⟩, ⟨_, rfl⟩, ⟨_, rfl⟩, ⟨_, _, rfl⟩,
    ⟨_, ⟨rfl, fun m u h0 h2 h => by
      obtain rfl : m = 1 := by omega
      cases h
      rfl⟩, by decide⟩, ⟨_, rfl⟩⟩
theorem witness_AttachOnceBeforeStart :
    (State.reset.claimed = false ∧ State.reset.started = false) ∧ ((chan [] []).claimed = true ∧ (chan [] []).started = false) ∧
    ((chan [] []).start.claimed = true ∧ (chan [] []).start.status = .running) ∧
    ((chan [] []).start.halt.claimed = true ∧ (chan [] []).start.halt.started = true ∧
      (chan [] []).start.halt.status ≠ .running) ∧
    (State.reset.start.claimed = false ∧ State.reset.start.started = true) := by decide
theorem witness_InspectShowsDensePrefix :
    4 < (State.construct [1, 0, 0, 0, 99]).progLen ∧ State.reset.ExtWf ∧ State.reset.progLen ≤ 0 ∧ 0 ∉ State.reset.ext ∧
      after (exec (.input (.position 0)) (chan [3, 0] [] true)) (fun t => t.isRunning && t.ip == 0) = true :=
  ⟨by decide, reset_ExtWf, by decide, by decide, by decide⟩
theorem witness_EngineStepIsIsolated :
    ∃ sys' sl, pipe.stepEngine 0 = .next sys' ∧ 1 ≠ 0 ∧ pipe.slots[1]? = some sl := ⟨_, _, rfl, by decide, rfl⟩
theorem pipe_consumer (q : Nat) (h : pipe.consumerOf q = some 1) : q = 0 := by
  by_contra hq
  have : ((0 : Nat) == q) = false := by simpa using Ne.symm hq
  simp [pipe, System.consumerOf, this] at h
theorem witness_PipelineKeepsOrder :
    ∃ sys' sp sc sc', pipe.consumerOf 0 = some 1 ∧ (∀ q, pipe.consumerOf q = some 1 → q = 0) ∧ pipe.slots[0]? = some sp ∧
      sp.engine.outq = [] ∧ pipe.slots[1]? = some sc ∧ System.runSchedule [0, 1] pipe = .next sys' ∧
      sys'.slots[1]? = some sc' ∧ System.observeRun 0 stepSends [0, 1] pipe = [11] ∧
      System.observeRun 1 stepTakes [0, 1] pipe = [11] :=
  ⟨_, _, _, _, by decide, pipe_consumer, rfl, rfl, rfl, rfl, rfl, by decide, by decide⟩
theorem witness_DropClosesDownstream :
    ∃ sl, pipe.alive 0 = true ∧ pipe.consumerOf 0 = some 1 ∧ 1 ≠ 0 ∧ pipe.slots[1]? = some sl ∧ 1 ∉ pipe.hostSenders ∧
      (∀ l ∈ pipe.links, l.consumer = 1 → l.producer = 0) ∧ 1 ∈ { pipe with hostSenders := [1] }.hostSenders :=
  ⟨_, by decide, by decide, by decide, rfl, by decide, by decide, by decide⟩

end Sys2Proof.Tests
end

section
/-! What a source operand's value and a destination operand's address are in each mode (spec/20_memory.md R54, R55),
each as one chain of tests on the exact integers: the equations of `toAddr` and `State.relativeAddr` come first, and
both operand forms follow from them. -/

namespace Sys2Proof.Machine

/-- Leaving the value range (spec/00_scope.md R9), at either end. -/
theorem not_inRange_iff (n : Int) : ¬ InRange n ↔ n < -2 ^ 63 ∨ n > 2 ^ 63 - 1 := by
  simp only [InRange, minInt, maxInt]
  omega

/-- `toAddr` (spec/20_memory.md R56) by the sign of the value, the address being the value itself. -/
theorem toAddr_eq_ite (v : Val) :
    toAddr v = if v.toInt < 0 then .error ⟨.negativeAddress, .value v⟩ else .ok v.toInt.toNat := by
  rcases toAddr_cases v with ⟨hnonneg, haddr⟩ | ⟨hneg, haddr⟩
  · have hnat : v.toInt.toNat = v.toNat := by
      have hself := (toNat_of_nonneg hnonneg).1
      omega
    rw [haddr, if_neg (by omega), hnat]
  · rw [haddr, if_pos hneg]

/-- A Relative operand's address (spec/20_memory.md R54, R55) by the exact sum: the range first, then the sign. -/
theorem State.relativeAddr_eq_ite (s : State) (raw : Val) :
    s.relativeAddr raw =
      if s.rb.toInt + raw.toInt < -2 ^ 63 ∨ s.rb.toInt + raw.toInt > 2 ^ 63 - 1 then
        .error ⟨.arithmeticOverflow, .nothing⟩
      else if s.rb.toInt + raw.toInt < 0 then
        .error ⟨.negativeAddress, .value (BitVec.ofInt 64 (s.rb.toInt + raw.toInt))⟩
      else .ok (s.rb.toInt + raw.toInt).toNat := by
  simp only [← not_inRange_iff]
  rcases s.relativeAddr_cases raw with ⟨hout, haddr⟩ | ⟨hin, hneg, haddr⟩ | ⟨hin, hnonneg, haddr⟩
  · rw [haddr, if_pos hout]
  · rw [haddr, if_neg (not_not_intro hin), if_pos hneg]
  · rw [haddr, if_neg (not_not_intro hin), if_neg (by omega)]

/-- A Position source reads the cell its raw operand names; a fault of the address passes through. -/
theorem State.src_position_eq_map (s : State) (raw : Val) : s.src (.position raw) = (toAddr raw).map s.read := by
  simp only [State.src]
  cases toAddr raw <;> rfl

/-- A Relative source reads the cell at its relative address; a fault of the address passes through. -/
theorem State.src_relative_eq_map (s : State) (raw : Val) :
    s.src (.relative raw) = (s.relativeAddr raw).map s.read := by
  simp only [State.src]
  cases s.relativeAddr raw <;> rfl

/-- Settles O9: a source that reads memory is `State.read` mapped over its address, so each test on the address becomes
the same test on the value. -/
theorem sourceOperandValue : Obligations.SourceOperandValue := by
  intro s raw
  refine ⟨?position, s.src_immediate raw, ?relative⟩
  case position =>
    rw [s.src_position_eq_map, toAddr_eq_ite, apply_ite (Except.map s.read)]
    rfl
  case relative =>
    rw [s.src_relative_eq_map, s.relativeAddr_eq_ite, apply_ite (Except.map s.read), apply_ite (Except.map s.read)]
    rfl

/-- Settles O10: a destination is its address, not dereferenced, and an Immediate one is refused. -/
theorem destinationOperandAddress : Obligations.DestinationOperandAddress := fun s p raw =>
  ⟨toAddr_eq_ite raw, s.dst_immediate p raw, s.relativeAddr_eq_ite raw⟩

end Sys2Proof.Machine
end

section
/-! The decoder seen as one loop over the parameters (spec/30_encoding.md R89). `decodeParams` is that loop on any
number of operand cells and `decodeOperands_parts` ties the model's three formats to it, so that what the loop reads
and refuses is proved once, by induction on the cells, and then holds of every format. -/

namespace Sys2Proof

/-! ### Results under a function -/

section
variable {ε α β : Type} {g : α → β} {x : Except ε α}

theorem except_map_eq_ok_iff {b : β} : x.map g = .ok b ↔ ∃ a, x = .ok a ∧ g a = b := by
  cases x <;> simp [Except.map]

theorem except_map_eq_error_iff {f : ε} : x.map g = .error f ↔ x = .error f := by
  cases x <;> simp [Except.map]

end

/-! ### The loop of R89 -/

/-- The parameters of word `w` from number `p` on, one for each operand cell, the lowest checked first. -/
def decodeParams (w : Nat) : Nat → List Val → Except DecodeFault (List Operand)
  | _, [] => return []
  | p, c :: cs => do
    let o ← decodeParam w p c
    let os ← decodeParams w (p + 1) cs
    return o :: os

/-- One parameter: a digit that is 0, 1 or 2 becomes the operand's mode, any other is refused. -/
theorem decodeParam_cases (w p : Nat) (raw : Val) :
    (modeDigit w p ≤ 2 ∧ ∃ o, decodeParam w p raw = .ok o ∧ o.mode = modeDigit w p ∧ o.raw = raw) ∨
    (2 < modeDigit w p ∧ decodeParam w p raw = .error (.invalidAddressingMode p (modeDigit w p))) := by
  rcases Nat.lt_or_ge 2 (modeDigit w p) with hbad | hgood
  · exact .inr ⟨hbad, operandOf_bad raw hbad⟩
  · refine .inl ⟨hgood, ?_⟩
    unfold decodeParam
    interval_cases modeDigit w p <;> exact ⟨_, rfl, rfl, rfl⟩

theorem decodeParams_cons_ok {w p : Nat} {c : Val} {o : Operand} (h : decodeParam w p c = .ok o) (cs : List Val) :
    decodeParams w p (c :: cs) = (decodeParams w (p + 1) cs).map (o :: ·) := by
  simp only [decodeParams, h]
  rfl

theorem decodeParams_cons_error {w p : Nat} {c : Val} {f : DecodeFault} (h : decodeParam w p c = .error f)
    (cs : List Val) : decodeParams w p (c :: cs) = .error f := by
  simp only [decodeParams, h]
  rfl

/-- What the loop reads: each operand has the raw value of its own cell and the mode of its own digit. -/
theorem raws_and_modes_of_decodeParams {w p : Nat} {cs : List Val} {os : List Operand}
    (h : decodeParams w p cs = .ok os) :
    os.map Operand.raw = cs ∧ os.map Operand.mode = (List.range' p cs.length).map (modeDigit w) := by
  induction cs generalizing p os with
  | nil => cases h; exact ⟨rfl, rfl⟩
  | cons c cs ih =>
    rcases decodeParam_cases w p c with ⟨-, o, ho, hmode, hraw⟩ | ⟨-, ho⟩
    · rw [decodeParams_cons_ok ho, except_map_eq_ok_iff] at h
      obtain ⟨os, hos, rfl⟩ := h
      obtain ⟨hraws, hmodes⟩ := ih hos
      simp [hraw, hmode, hraws, hmodes, List.range'_succ]
    · rw [decodeParams_cons_error ho] at h
      cases h

/-- Parameter `q` is the lowest one from `p` on whose mode digit is 3 to 9 (R91). -/
def IsLowestBadMode (w p q : Nat) : Prop := p ≤ q ∧ 2 < modeDigit w q ∧ ∀ r, p ≤ r → r < q → modeDigit w r ≤ 2

theorem isLowestBadMode_iff_of_bad {w p : Nat} (h : 2 < modeDigit w p) (q : Nat) : IsLowestBadMode w p q ↔ q = p := by
  constructor
  · rintro ⟨hle, -, hbelow⟩
    by_contra hne
    have hgood := hbelow p le_rfl (by omega)
    omega
  · rintro rfl
    exact ⟨le_rfl, h, fun r _ _ => by omega⟩

theorem isLowestBadMode_iff_of_good {w p : Nat} (h : modeDigit w p ≤ 2) (q : Nat) :
    IsLowestBadMode w p q ↔ IsLowestBadMode w (p + 1) q := by
  constructor
  · rintro ⟨hle, hbad, hbelow⟩
    have hne : p ≠ q := by rintro rfl; omega
    exact ⟨by omega, hbad, fun r hr => hbelow r (by omega)⟩
  · rintro ⟨hle, hbad, hbelow⟩
    refine ⟨by omega, hbad, fun r hr hrq => ?_⟩
    rcases hr.eq_or_lt with rfl | hpr
    · exact h
    · exact hbelow r hpr hrq

/-- What the loop refuses: the lowest parameter with a bad digit, and nothing else. -/
theorem decodeParams_eq_error_iff {w p : Nat} {cs : List Val} {f : DecodeFault} :
    decodeParams w p cs = .error f ↔
      ∃ q, f = .invalidAddressingMode q (modeDigit w q) ∧ IsLowestBadMode w p q ∧ q < p + cs.length := by
  induction cs generalizing p with
  | nil =>
    constructor
    · intro h
      cases h
    · rintro ⟨q, -, ⟨hle, -⟩, hlt⟩
      exact absurd hlt (Nat.not_lt.2 hle)
  | cons c cs ih =>
    rcases decodeParam_cases w p c with ⟨hgood, o, ho, -, -⟩ | ⟨hbad, ho⟩
    · rw [decodeParams_cons_ok ho, except_map_eq_error_iff, ih]
      simp only [isLowestBadMode_iff_of_good hgood, List.length_cons, Nat.add_assoc, Nat.add_comm 1]
    · rw [decodeParams_cons_error ho]
      simp [isLowestBadMode_iff_of_bad hbad, eq_comm]

/-! ### The formats are the loop -/

/-- What an instruction is made of. -/
def Instr.parts (i : Instr) : Opcode × List Operand := (i.opcode, i.operands)

theorem decodeF1_parts {f : Operand → Instr} {op : Opcode} (hf : ∀ o1, (f o1).parts = (op, [o1])) (w : Nat)
    (c1 : Val) : Instr.parts <$> decodeF1 f w c1 = Prod.mk op <$> decodeParams w 1 [c1] := by
  simp [decodeF1, decodeParams, hf]

theorem decodeF2_parts {f : Operand → Operand → Instr} {op : Opcode}
    (hf : ∀ o1 o2, (f o1 o2).parts = (op, [o1, o2])) (w : Nat) (c1 c2 : Val) :
    Instr.parts <$> decodeF2 f w c1 c2 = Prod.mk op <$> decodeParams w 1 [c1, c2] := by
  simp [decodeF2, decodeParams, hf]

theorem decodeF3_parts {f : Operand → Operand → Operand → Instr} {op : Opcode}
    (hf : ∀ o1 o2 o3, (f o1 o2 o3).parts = (op, [o1, o2, o3])) (w : Nat) (c1 c2 c3 : Val) :
    Instr.parts <$> decodeF3 f w c1 c2 c3 = Prod.mk op <$> decodeParams w 1 [c1, c2, c3] := by
  simp [decodeF3, decodeParams, hf]

/-- Every row of R84 decodes its parameters by the loop, on as many cells as its arity. -/
theorem decodeOperands_parts (op : Opcode) (w : Nat) (c1 c2 c3 : Val) :
    (decodeOperands op w c1 c2 c3).map Instr.parts =
      (decodeParams w 1 ([c1, c2, c3].take op.arity)).map (Prod.mk op) := by
  cases op with
  | add | multiply | lessThan | equals => exact decodeF3_parts (fun _ _ _ => rfl) w c1 c2 c3
  | jumpIfTrue | jumpIfFalse => exact decodeF2_parts (fun _ _ => rfl) w c1 c2
  | input | output | adjustRelativeBase => exact decodeF1_parts (fun _ => rfl) w c1
  | halt => rfl

theorem parts_of_decodeOperands {op : Opcode} {w : Nat} {c1 c2 c3 : Val} {i : Instr}
    (h : decodeOperands op w c1 c2 c3 = .ok i) :
    i.opcode = op ∧ decodeParams w 1 ([c1, c2, c3].take op.arity) = .ok i.operands := by
  have hparts : (decodeOperands op w c1 c2 c3).map Instr.parts = .ok i.parts := by rw [h]; rfl
  rw [decodeOperands_parts, except_map_eq_ok_iff] at hparts
  obtain ⟨os, hos, hop⟩ := hparts
  cases hop
  exact ⟨rfl, hos⟩

theorem decodeOperands_eq_error_iff {op : Opcode} {w : Nat} {c1 c2 c3 : Val} {f : DecodeFault} :
    decodeOperands op w c1 c2 c3 = .error f ↔ decodeParams w 1 ([c1, c2, c3].take op.arity) = .error f := by
  rw [← except_map_eq_error_iff (g := Instr.parts), decodeOperands_parts, except_map_eq_error_iff]

/-! ### The whole decode -/

theorem Opcode.arity_le (op : Opcode) : op.arity ≤ 3 := by cases op <;> decide

@[simp] theorem Instr.operands_length (i : Instr) : i.operands.length = i.opcode.arity := by cases i <;> rfl

/-- A word with an opcode's number decodes by that opcode (R89). -/
theorem decodeCells_of_opcode {w : Val} {op : Opcode} (hnonneg : 0 ≤ w.toInt) (hop : w.toNat % 100 = op.number)
    (c1 c2 c3 : Val) : decodeCells w c1 c2 c3 = (decodeOperands op w.toNat c1 c2 c3).map (·, op.size) := by
  unfold decodeCells
  rw [if_neg (by omega), hop, opcodeOf_number]
  rfl

theorem decodeCells_of_neg {w : Val} (hneg : w.toInt < 0) (c1 c2 c3 : Val) :
    decodeCells w c1 c2 c3 = .error (.unknownOpcode w) := if_pos hneg

/-- Everything a decoded instruction tells of its word and cells. -/
theorem parts_of_decodeCells {w c1 c2 c3 : Val} {i : Instr} {n : Nat} (h : decodeCells w c1 c2 c3 = .ok (i, n)) :
    i.opcode.number = w.toNat % 100 ∧ n = i.opcode.size ∧
      decodeParams w.toNat 1 ([c1, c2, c3].take i.opcode.arity) = .ok i.operands := by
  rcases lt_or_ge w.toInt 0 with hneg | hnonneg
  · rw [decodeCells_of_neg hneg] at h
    cases h
  cases ho : opcodeOf (w.toNat % 100) with
  | none => simp [decodeCells, hnonneg.not_gt, ho] at h
  | some op =>
    have hop := opcodeOf_eq_some.1 ho
    rw [decodeCells_of_opcode hnonneg hop, except_map_eq_ok_iff] at h
    obtain ⟨j, hj, hpair⟩ := h
    cases hpair
    obtain ⟨rfl, hparams⟩ := parts_of_decodeOperands hj
    exact ⟨hop.symm, rfl, hparams⟩

/-- Which words with an opcode's number fail to decode, and how (R91). -/
theorem decodeCells_eq_error_iff {w c1 c2 c3 : Val} {op : Opcode} {f : DecodeFault} (hnonneg : 0 ≤ w.toInt)
    (hop : w.toNat % 100 = op.number) :
    decodeCells w c1 c2 c3 = .error f ↔
      ∃ q, f = .invalidAddressingMode q (modeDigit w.toNat q) ∧ IsLowestBadMode w.toNat 1 q ∧ q ≤ op.arity := by
  have hlen : ([c1, c2, c3].take op.arity).length = op.arity := by simp [op.arity_le]
  rw [decodeCells_of_opcode hnonneg hop, except_map_eq_error_iff, decodeOperands_eq_error_iff,
    decodeParams_eq_error_iff, hlen]
  simp only [Nat.lt_one_add_iff]

/-! ### The word of an instruction -/

/-- Mode digits that are a word's own, from digit `p + 1` on, add up to that part of the word (R80). -/
theorem modesNumber_of_modes {w p n : Nat} {os : List Operand}
    (h : os.map Operand.mode = (List.range' p n).map (modeDigit w)) :
    w % 10 ^ (p + 1) + modesNumber p os = w % 10 ^ (p + 1 + n) := by
  induction os generalizing p n with
  | nil =>
    obtain rfl : n = 0 := by simpa using h.symm
    rfl
  | cons o os ih =>
    cases n with
    | zero => cases h
    | succ n =>
      rw [List.range'_succ, List.map_cons, List.map_cons, List.cons.injEq] at h
      obtain ⟨hmode, hmodes⟩ := h
      calc w % 10 ^ (p + 1) + (o.mode * 10 ^ (p + 1) + modesNumber (p + 1) os)
          = w % 10 ^ (p + 1 + 1) + modesNumber (p + 1) os := by
            rw [Nat.mod_pow_succ (k := p + 1), hmode, modeDigit, Nat.mul_comm (10 ^ (p + 1)), Nat.add_assoc]
        _ = w % 10 ^ (p + 1 + (n + 1)) := by rw [ih hmodes, Nat.add_right_comm]; rfl

/-! ### The statements -/

/-- Settles O2: the opcode digits and the mode digits the decoder read are all the digits the word has. -/
theorem canonicalWordEncodesBack : Obligations.CanonicalWordEncodesBack := by
  intro w c1 c2 c3 i n hdec hcanonical
  obtain ⟨hnumber, -, hparams⟩ := parts_of_decodeCells hdec
  obtain ⟨hraws, hmodes⟩ := raws_and_modes_of_decodeParams hparams
  have hdigits : w.toNat % 100 + modesNumber 1 i.operands = w.toNat := by
    refine (modesNumber_of_modes hmodes).trans (Nat.mod_eq_of_lt ?_)
    simpa [i.opcode.arity_le, Nat.add_comm] using hcanonical
  have hword : i.word = w := by
    rw [Instr.word, hnumber, hdigits, BitVec.ofNat_toNat, BitVec.setWidth_eq]
  rw [encode, hword, hraws, i.operands_length]

/-- The size bounds of R81: 1 for Halt, 2 to 4 for the others. -/
theorem Instr.size_bounds (i : Instr) :
    (i = .halt → i.opcode.size = 1) ∧ (i ≠ .halt → 2 ≤ i.opcode.size ∧ i.opcode.size ≤ 4) := by
  cases i <;> simp [Instr.opcode, Opcode.size, Opcode.arity]

/-- Settles O4: the size is that of the opcode, and the number of an opcode determines it. -/
theorem sizeIsOnePlusArity : Obligations.SizeIsOnePlusArity := by
  constructor
  case left =>
    intro w c1 c2 c3 i n hdec
    obtain ⟨hnumber, rfl, -⟩ := parts_of_decodeCells hdec
    exact ⟨by rw [i.operands_length, Opcode.size], hnumber, rfl, i.size_bounds⟩
  case right =>
    rintro w w' c1 c2 c3 c1' c2' c3' ⟨i, n⟩ ⟨i', n'⟩ hdec hdec' hlow
    obtain ⟨hnumber, rfl, -⟩ := parts_of_decodeCells hdec
    obtain ⟨hnumber', rfl, -⟩ := parts_of_decodeCells hdec'
    have hop : i.opcode = i'.opcode := Opcode.number_injective (by rw [hnumber, hlow, hnumber'])
    rw [hop]

/-- Settles O5: with good digits the loop cannot refuse, and what it then reads is the digits and the cells. -/
theorem decodeReadsEveryDigit : Obligations.DecodeReadsEveryDigit := by
  intro w c1 c2 c3 op hnonneg hop hgood
  cases hdec : decodeCells w c1 c2 c3 with
  | error f =>
    obtain ⟨q, -, ⟨hle, hbad, -⟩, hlt⟩ := (decodeCells_eq_error_iff hnonneg hop).1 hdec
    exact absurd (hgood q hle hlt) (Nat.not_le.2 hbad)
  | ok r =>
    obtain ⟨i, n⟩ := r
    obtain ⟨hnumber, rfl, hparams⟩ := parts_of_decodeCells hdec
    obtain rfl : i.opcode = op := Opcode.number_injective (by rw [hnumber, hop])
    obtain ⟨hraws, hmodes⟩ := raws_and_modes_of_decodeParams hparams
    refine ⟨i, rfl, rfl, i.operands_length, fun p hp => ?_⟩
    have hget : i.operands[p]? = some (i.operands[p]'(by simpa using hp)) := List.getElem?_eq_getElem _
    refine ⟨_, hget, ?mode, ?raw⟩
    case mode =>
      have hmodep := congrArg (·[p]?) hmodes
      simpa [hget, hp, i.opcode.arity_le, modeDigit, Nat.add_comm 1, Nat.add_assoc] using hmodep
    case raw =>
      have hrawp := congrArg (·[p]?) hraws
      simpa [hget, hp, List.getElem?_take] using hrawp.symm

/-- A word that does not decode stops the step that fetches it, with the decode's own fault and nothing else changed
(spec/60_exceptions.md R201, R202, R210). -/
theorem Machine.step_of_decodeAt_error {s : State} {f : DecodeFault} (hrun : s.status = .running) (hip : s.ip < 2 ^ 64)
    (hdec : s.decodeAt s.ip = .error f) :
    step s = .next ({ s with started := true }.faultedBy (decodeTrap f)) := by
  have haddr : ¬ addressSpace ≤ s.ip := by simpa [addressSpace] using hip
  have hfetch : s.start.fetch = .trap (decodeTrap f) := by simp [State.fetch, hrun, haddr, hdec]
  rw [step, hfetch]
  rfl

/-- Settles O7: the loop refuses the lowest bad digit, Halt has no parameter to refuse, and a step takes the refusal as
its fault. -/
theorem lowestBadModeIsReported : Obligations.LowestBadModeIsReported := by
  refine ⟨?exactly, ?halt, fun s p g hrun hip hdec => Machine.step_of_decodeAt_error hrun hip hdec⟩
  case exactly =>
    intro w c1 c2 c3 op p g hnonneg hop
    rw [decodeCells_eq_error_iff hnonneg hop]
    constructor
    · rintro ⟨q, hf, ⟨hle, hbad, hbelow⟩, hlt⟩
      cases hf
      exact ⟨hle, hlt, rfl, hbad, hbelow⟩
    · rintro ⟨hle, hlt, rfl, hbad, hbelow⟩
      exact ⟨p, rfl, ⟨hle, hbad, hbelow⟩, hlt⟩
  case halt =>
    intro w c1 c2 c3 p g hlow hdec
    rcases lt_or_ge w.toInt 0 with hneg | hnonneg
    · rw [decodeCells_of_neg hneg] at hdec
      cases hdec
    · obtain ⟨q, -, ⟨hle, -⟩, hlt⟩ := (decodeCells_eq_error_iff (op := .halt) hnonneg hlow).1 hdec
      exact absurd hlt (Nat.not_le.2 hle)

end Sys2Proof
end

section
/-! A completed write and its frame (spec/20_memory.md R53), for a store, the advance after it and the three-operand
instructions that end in them; Add and Multiply (spec/41_arithmetic.md) are the two whose result is range-checked. -/

namespace Sys2Proof.Machine

/-! ### A store and its frame -/

/-- The capacity check of a write tests the condition of spec/20_memory.md R60. -/
theorem State.roomFor_iff_hasRoom (s : State) (k : Nat) : s.roomFor k = true ↔ s.HasRoom k := by
  rw [s.roomFor_iff, State.HasRoom]
  cases s.memCapacity with
  | none => simp
  | some cap => simp

/-- The model's store writes its cell, materialises it at or above `N`, and keeps everything else. -/
theorem State.stored_store {s : State} (hwf : s.mem.wf) (k : Nat) (v : Val) : Stored s (s.store k v) k v s.ip where
  written := State.store_read_same hwf k v
  kept _ hne := s.store_read_other v hne
  ext a := by
    rw [State.store_ext]
    split
    case isTrue hdense => simp [Nat.not_le.2 hdense]
    case isFalse hsparse => simp [Nat.le_of_not_lt hsparse]
  ip := rfl
  rest := rfl

/-- Advancing after a store moves `ip` and nothing else the frame speaks of. -/
theorem Stored.advance {s t : State} {k ip' : Nat} {v : Val} (h : Stored s t k v ip') (size : Nat) :
    Stored s (t.advance size) k v (ip' + size) where
  written := h.written
  kept := h.kept
  ext := h.ext
  ip := congrArg (· + size) h.ip
  rest := congrArg (State.advance · size) h.rest

/-! ### Three-operand instructions -/

section
variable {a b d : Operand} {s : State} {x y : Val} {k : Nat} (hwf : s.mem.wf) (ha : s.src a = .ok x)
  (hb : s.src b = .ok y) (hd : s.dst 3 d = .ok k) (hroom : s.HasRoom k)
include hwf ha hb hd hroom

/-- A three-operand instruction whose checks all pass stores the operation's result at its destination. -/
theorem threeOperand_stored {op : Val → Val → Except Trap Val} {r : Val} (hr : op x y = .ok r) :
    ∃ t, threeOperand op a b d s = .next t ∧ Stored s t k r (s.ip + 4) :=
  ⟨_, threeOperand_next ha hb hd hr ((s.roomFor_iff_hasRoom k).2 hroom), (State.stored_store hwf k r).advance 4⟩

/-- If the operation range-checks an exact integer (spec/40_execution_cycle.md R120) and that is in range, the value
stored is that integer. -/
theorem threeOperand_stored_of_chk {op : Val → Val → Except Trap Val} {n : Int} (hop : op x y = chk n)
    (hn : InRange n) :
    ∃ t v, threeOperand op a b d s = .next t ∧ v.toInt = n ∧ Stored s t k v (s.ip + 4) := by
  obtain ⟨t, hnext, hstored⟩ := threeOperand_stored hwf ha hb hd hroom (hop.trans (chk_of_inRange hn))
  exact ⟨t, BitVec.ofInt 64 n, hnext, toInt_ofInt hn, hstored⟩

end

/-! ### Add and Multiply -/

/-- Settles O13: Add is the three-operand instruction that range-checks the exact sum. -/
theorem addStoresExactSum : Obligations.AddStoresExactSum :=
  fun _ _ _ _ _ _ _ hwf ha hb hd hsum hroom => threeOperand_stored_of_chk (op := addOp) hwf ha hb hd hroom rfl hsum

/-- Settles O14: Multiply is the three-operand instruction that range-checks the exact product. -/
theorem multiplyStoresExactProduct : Obligations.MultiplyStoresExactProduct :=
  fun _ _ _ _ _ _ _ hwf ha hb hd hprod hroom =>
    threeOperand_stored_of_chk (op := multiplyOp) hwf ha hb hd hroom rfl hprod

end Sys2Proof.Machine
end

section
/-! Input from a channel and Output (spec/42_io.md R140, R141): what each does when its operand is good, and the fault it
takes when its operand is bad. -/

namespace Sys2Proof.Machine

/-- The fault the model takes is the record of spec/60_exceptions.md R210 that the claims write out. -/
theorem State.raise_eq_faultedBy (s : State) (e : Trap) : s.raise e = s.faultedBy e := rfl

theorem exec_input (d : Operand) (s : State) : exec (.input d) s = execInput d s := rfl

theorem exec_output (a : Operand) (s : State) : exec (.output a) s = execOutput a s := rfl

/-! ### Input -/

/-- An Input whose destination faults takes that fault before it prompts or receives. -/
theorem execInput_error {d : Operand} {s : State} {e : Trap} (hd : s.dst 1 d = .error e) :
    execInput d s = .next (s.raise e) := by
  simp [execInput, hd]

/-- Settles O17: with the oldest value taken from the queue, what is left of the Input is a store and the advance by 2. -/
theorem inputStoresOldestQueued : Obligations.InputStoresOldestQueued := by
  intro d s k v rest hwf hchannel hdst hqueue hroom
  have hnext : execInput d s = .next (((s.setInq rest).store k v).advance 2) :=
    execInput_channel_next hchannel hdst hqueue ((s.roomFor_iff_hasRoom k).2 hroom)
  have hstored : Stored (s.setInq rest) ((s.setInq rest).store k v) k v s.ip :=
    State.stored_store (s := s.setInq rest) hwf k v
  exact ⟨_, (exec_input d s).trans hnext, hstored.advance 2⟩

/-- Settles O30: the destination's fault comes first, on either transport and whatever is queued. -/
theorem inputBadDestinationFaultsAtOnce : Obligations.InputBadDestinationFaultsAtOnce := by
  intro d s e hdst
  rw [exec_input, execInput_error hdst, s.raise_eq_faultedBy]

/-! ### Output -/

/-- An Output whose operand faults takes that fault and sends nothing. -/
theorem execOutput_error {a : Operand} {s : State} {e : Trap} (ha : s.src a = .error e) :
    execOutput a s = .next (s.raise e) := by
  simp [execOutput, ha, bind, Except.bind]

/-- Settles O20: a good operand is sent and `ip` advances by 2; the only fault is the operand's. -/
theorem outputAppendsValue : Obligations.OutputAppendsValue := by
  intro a s
  constructor
  · intro x hsrc
    rw [exec_output, execOutput_next hsrc]
    rfl
  · intro e hsrc
    rw [exec_output, execOutput_error hsrc, s.raise_eq_faultedBy]

end Sys2Proof.Machine
end

section
/-! The conditional jumps (spec/43_jumps.md R160, R161) when nothing traps: the two share one shape and differ in the
condition alone, so what a completed jump does to `ip` is said once, for any condition. -/

namespace Sys2Proof.Machine

theorem exec_jumpIfTrue (a b : Operand) (s : State) : exec (.jumpIfTrue a b) s = jumpWhen isTrueVal a b s := rfl

theorem exec_jumpIfFalse (a b : Operand) (s : State) :
    exec (.jumpIfFalse a b) s = jumpWhen (fun x => !isTrueVal x) a b s := rfl

/-- The jumps' test of a condition value reads it as an exact integer. -/
theorem isTrueVal_iff_toInt_ne (x : Val) : isTrueVal x = true ↔ x.toInt ≠ 0 := decide_eq_true_iff

/-- A conditional jump that does not trap changes `ip` alone, as the truth `P` of its condition says. -/
theorem jumpWhen_moves_ip {cond : Val → Bool} {P : Prop} {a b : Operand} {s : State} {x y : Val}
    (hcond : cond x = true ↔ P) (ha : s.src a = .ok x) (hb : s.src b = .ok y) (hy : 0 ≤ y.toInt) :
    ∃ t : Nat, jumpWhen cond a b s = .next { s with ip := t } ∧ (P → (t : Int) = y.toInt) ∧ (¬ P → t = s.ip + 3) := by
  have htarget : toAddr y = .ok y.toInt.toNat := by rw [toAddr_eq_ite, if_neg (by omega)]
  have hnext := jumpWhen_next (cond := cond) ha hb htarget
  by_cases hP : P
  case pos =>
    rw [if_pos (hcond.2 hP)] at hnext
    exact ⟨_, hnext, fun _ => Int.toNat_of_nonneg hy, fun hnot => absurd hP hnot⟩
  case neg =>
    rw [if_neg (mt hcond.1 hP)] at hnext
    exact ⟨_, hnext, fun h => absurd h hP, fun _ => rfl⟩

/-- Settles O21: the jump whose condition is that the value is not 0. -/
theorem jumpIfTrueMovesIp : Obligations.JumpIfTrueMovesIp := by
  intro a b s x y ha hb hy
  obtain ⟨t, hnext, htaken, hfall⟩ := jumpWhen_moves_ip (isTrueVal_iff_toInt_ne x) ha hb hy
  exact ⟨t, (exec_jumpIfTrue a b s).trans hnext, htaken, fun hzero => hfall (not_not_intro hzero)⟩

/-- Settles O22: the jump whose condition is that the value is 0. -/
theorem jumpIfFalseMovesIp : Obligations.JumpIfFalseMovesIp := by
  intro a b s x y ha hb hy
  have hcond : (!isTrueVal x) = true ↔ x.toInt = 0 := by
    rw [Bool.not_eq_true', ← Bool.not_eq_true, isTrueVal_iff_toInt_ne, not_not]
  rw [exec_jumpIfFalse]
  exact jumpWhen_moves_ip (cond := fun x => !isTrueVal x) hcond ha hb hy

end Sys2Proof.Machine
end

section
/-! LessThan and Equals (spec/44_compare.md R170, R171): the three-operand instructions whose operation cannot fault, so
that a completed write needs no range premise. -/

namespace Sys2Proof.Machine

theorem exec_lessThan (a b d : Operand) (s : State) :
    exec (.lessThan a b d) s = threeOperand (fun x y => .ok (lessThanVal x y)) a b d s := rfl

theorem exec_equals (a b d : Operand) (s : State) :
    exec (.equals a b d) s = threeOperand (fun x y => .ok (equalsVal x y)) a b d s := rfl

/-- Two words are equal exactly if they are equal as signed integers, so Equals may be read either way. -/
theorem equalsVal_eq_ite_toInt (x y : Val) : equalsVal x y = if x.toInt = y.toInt then 1 else 0 := by
  rw [equalsVal_eq]
  exact if_congr BitVec.toInt_inj.symm rfl rfl

/-- Settles O15: LessThan is the three-operand instruction whose result is the signed comparison. -/
theorem lessThanStoresTruth : Obligations.LessThanStoresTruth := by
  intro a b d s x y k hwf ha hb hd hroom
  rw [exec_lessThan]
  exact threeOperand_stored hwf ha hb hd hroom (congrArg Except.ok (lessThanVal_eq x y))

/-- Settles O16: Equals is the three-operand instruction whose result is the equality of the signed integers. -/
theorem equalsStoresTruth : Obligations.EqualsStoresTruth := by
  intro a b d s x y k hwf ha hb hd hroom
  rw [exec_equals]
  exact threeOperand_stored hwf ha hb hd hroom (congrArg Except.ok (equalsVal_eq_ite_toInt x y))

end Sys2Proof.Machine
end

section
/-! AdjustRelativeBase (spec/45_relative_base.md R180): the two ways it faults, beside its completion, and the claim that
puts the three together. -/

namespace Sys2Proof.Machine

theorem exec_adjustRelativeBase (a : Operand) (s : State) :
    exec (.adjustRelativeBase a) s = execAdjustRelativeBase a s := rfl

/-- An AdjustRelativeBase whose operand faults takes that fault. -/
theorem execAdjustRelativeBase_error {a : Operand} {s : State} {e : Trap} (ha : s.src a = .error e) :
    execAdjustRelativeBase a s = .next (s.raise e) := by
  simp [execAdjustRelativeBase, ha, bind, Except.bind]

/-- An AdjustRelativeBase whose exact sum is no 64-bit integer overflows (spec/92_eei_decisions.md D7). -/
theorem execAdjustRelativeBase_overflow {a : Operand} {s : State} {x : Val} (ha : s.src a = .ok x)
    (hr : ¬ InRange (s.rb.toInt + x.toInt)) :
    execAdjustRelativeBase a s = .next (s.raise ⟨.arithmeticOverflow, .nothing⟩) := by
  simp [execAdjustRelativeBase, ha, chk_of_not_inRange hr, bind, Except.bind]

/-- Settles O24: a sum in range goes into `rb` as its own 64-bit word; a sum out of range and a bad operand fault. -/
theorem adjustRelativeBaseAdds : Obligations.AdjustRelativeBaseAdds := by
  intro a s
  rw [exec_adjustRelativeBase]
  refine ⟨?completes, ?overflow, ?operand⟩
  case completes =>
    intro x hsrc hsum
    exact ⟨_, execAdjustRelativeBase_next hsrc hsum, toInt_ofInt hsum⟩
  case overflow =>
    intro x hsrc hsum
    rw [execAdjustRelativeBase_overflow hsrc hsum, s.raise_eq_faultedBy]
  case operand =>
    intro e hsrc
    rw [execAdjustRelativeBase_error hsrc, s.raise_eq_faultedBy]

end Sys2Proof.Machine
end

section
/-! Halt (spec/46_halt.md R185), and the record every stopped engine keeps (spec/60_exceptions.md R210; D10, D11). An
engine stops in two ways, by taking a fault and by Halt: each writes its own record, and every other outcome of a step
leaves the status as it was. -/

namespace Sys2Proof.Machine

theorem exec_halt (s : State) : exec .halt s = .next s.halt := rfl

/-- Settles O25: the Halt arm of `exec` sets the status and touches no other field. -/
theorem haltOnlyStops : Obligations.HaltOnlyStops := exec_halt

/-! ### The record of each status -/

theorem State.stopRecorded_of_running {s : State} (h : s.status = .running) : s.StopRecorded := by
  simp [State.StopRecorded, h]

/-- Taking a fault records `ip` and the word there, and changes neither. -/
theorem State.raise_stopRecorded (s : State) (e : Trap) : (s.raise e).StopRecorded := ⟨rfl, rfl⟩

/-- Halt does not move `ip` (D11), so the engine goes on standing at the word that halted it. -/
theorem State.halt_stopRecorded {s : State} (h : s.decodeAt s.ip = .ok (.halt, 1)) : s.halt.StopRecorded := h

/-- A step request to a stopped engine sets `started`, which the record does not mention. -/
theorem State.start_stopRecorded (s : State) : s.start.StopRecorded ↔ s.StopRecorded := Iff.rfl

theorem State.decodeAt_size {s : State} {ip n : Nat} {i : Instr} (h : s.decodeAt ip = .ok (i, n)) : n = i.size :=
  (parts_of_decodeCells h).2.1

/-! ### Only Halt stops an engine without a fault -/

/-- `t` has the status of `s`, or is the state some fault was taken in. -/
def KeepsStatusOrFaults (s t : State) : Prop := t.status = s.status ∨ ∃ u e, t = State.raise u e

theorem KeepsStatusOrFaults.stopRecorded {s t : State} (h : KeepsStatusOrFaults s t) (hrun : s.status = .running) :
    t.StopRecorded := by
  rcases h with hkept | ⟨u, e, rfl⟩
  · exact State.stopRecorded_of_running (hkept.trans hrun)
  · exact u.raise_stopRecorded e

theorem threeOperand_keepsStatusOrFaults {op : Val → Val → Except Trap Val} {a b d : Operand} {s t : State}
    (h : threeOperand op a b d s = .next t) : KeepsStatusOrFaults s t := by
  rcases threeOperand_cases h with ⟨e, rfl⟩ | ⟨x, y, k, r, -, -, -, -, -, rfl⟩
  · exact .inr ⟨s, e, rfl⟩
  · exact .inl rfl

theorem jumpWhen_keepsStatusOrFaults {cond : Val → Bool} {a b : Operand} {s t : State}
    (h : jumpWhen cond a b s = .next t) : KeepsStatusOrFaults s t := by
  rcases jumpWhen_cases h with ⟨e, rfl⟩ | ⟨x, y, k, -, -, -, rfl⟩
  · exact .inr ⟨s, e, rfl⟩
  · left
    split <;> rfl

theorem State.recv_value_status {s s' : State} {v : Val} (h : s.recv = .value v s') : s'.status = s.status := by
  rw [State.recv_value h]

theorem State.recv_blocked_status {s s' : State} (h : s.recv = .blocked s') : s'.status = s.status := by
  rw [State.recv_blocked h]

theorem execInput_keepsStatusOrFaults {d : Operand} {s t : State} (h : execInput d s = .next t) :
    KeepsStatusOrFaults s t := by
  rcases execInput_cases h with ⟨e, -, rfl⟩ | ⟨k, -, ⟨e, rfl⟩ | ⟨v, s', hrecv, -, rfl⟩ | hblocked⟩
  · exact .inr ⟨s, e, rfl⟩
  · exact .inr ⟨s.showPrompt, e, rfl⟩
  · exact .inl ((State.recv_value_status hrecv).trans s.showPrompt_status)
  · exact .inl ((State.recv_blocked_status hblocked).trans s.showPrompt_status)

theorem exec_keepsStatusOrFaults {i : Instr} {s t : State} (hi : i ≠ .halt) (h : exec i s = .next t) :
    KeepsStatusOrFaults s t := by
  cases i with
  | add a b d => exact threeOperand_keepsStatusOrFaults h
  | multiply a b d => exact threeOperand_keepsStatusOrFaults h
  | lessThan a b d => exact threeOperand_keepsStatusOrFaults h
  | equals a b d => exact threeOperand_keepsStatusOrFaults h
  | jumpIfTrue a b => exact jumpWhen_keepsStatusOrFaults h
  | jumpIfFalse a b => exact jumpWhen_keepsStatusOrFaults h
  | input d => exact execInput_keepsStatusOrFaults h
  | output a =>
    rcases execOutput_cases h with ⟨e, rfl⟩ | ⟨x, -, rfl⟩
    · exact .inr ⟨s, e, rfl⟩
    · exact .inl rfl
  | adjustRelativeBase a =>
    rcases execAdjustRelativeBase_cases h with ⟨e, rfl⟩ | ⟨x, -, -, rfl⟩
    · exact .inr ⟨s, e, rfl⟩
    · exact .inl rfl
  | halt => exact absurd rfl hi

/-- The instruction at `ip` of a running engine leaves a record of whatever it stops. -/
theorem exec_stopRecorded {i : Instr} {n : Nat} {s t : State} (hrun : s.status = .running)
    (hdec : s.decodeAt s.ip = .ok (i, n)) (h : exec i s = .next t) : t.StopRecorded := by
  by_cases hi : i = .halt
  case pos =>
    subst hi
    obtain rfl : n = 1 := State.decodeAt_size hdec
    rw [exec_halt] at h
    cases h
    exact State.halt_stopRecorded hdec
  case neg => exact (exec_keepsStatusOrFaults hi h).stopRecorded hrun

/-- Settles O46: a stopped engine changes in nothing the record mentions, and a running one stops only by a fault or by
the Halt at its `ip`. -/
theorem stepKeepsStopRecord : Obligations.StepKeepsStopRecord := by
  intro s t hrecorded hstep
  rcases step_cases hstep with ⟨-, rfl⟩ | ⟨-, -, f, -, rfl⟩ | ⟨hrun, -, i, n, hdec, hexec⟩
  · exact s.start_stopRecorded.2 hrecorded
  · exact s.start.raise_stopRecorded (decodeTrap f)
  · exact exec_stopRecorded (s := s.start) hrun hdec hexec

end Sys2Proof.Machine
end

section
/-! The inspect requests (spec/60_exceptions.md R243): their answers are functions of the memory and `N`, so whatever keeps
these two keeps what they show. -/

namespace Sys2Proof.Machine

/-! ### What the requests answer -/

@[simp] theorem State.inspectMemory_length (s : State) : s.inspectMemory.length = s.progLen := by
  rw [State.inspectMemory, List.length_map, List.length_range]

theorem State.inspectMemory_getElem? (s : State) {a : Nat} (h : a < s.progLen) :
    s.inspectMemory[a]? = some (s.read a) := by
  rw [State.inspectMemory, List.getElem?_map, List.getElem?_range h, Option.map_some]

@[simp] theorem State.getValueAt_eq_read (s : State) (a : Nat) : s.getValueAt a = s.read a := rfl

/-- The materialisation set holds every listed cell at or above `N`, so an address outside it is not listed (R52). -/
theorem State.read_eq_zero_of_not_mem_ext {s : State} {a : Nat} (hwf : s.ExtWf) (habove : s.progLen ≤ a)
    (hext : a ∉ s.ext) : s.read a = 0 := by
  refine Memory.read_eq_zero fun c hc hca => ?_
  subst hca
  exact hext (hwf.covers c hc habove)

/-! ### What the answers depend on -/

section
variable {s t : State} (hmem : t.mem = s.mem)
include hmem

theorem State.read_congr (a : Nat) : t.read a = s.read a := congrArg (Memory.read · a) hmem

theorem State.getValueAt_congr (a : Nat) : t.getValueAt a = s.getValueAt a := State.read_congr hmem a

theorem State.inspectMemory_congr (hlen : t.progLen = s.progLen) : t.inspectMemory = s.inspectMemory := by
  rw [State.inspectMemory, State.inspectMemory, hlen]
  exact List.map_congr_left fun a _ => State.read_congr hmem a

end

/-! ### An Input that waits -/

/-- An Input after which the engine still runs at the same `ip` is one whose receive had no value: a completed one moves
`ip`, and the others fault. -/
theorem execInput_waits {d : Operand} {s t : State} (h : execInput d s = .next t) (hrun : t.status = .running)
    (hip : t.ip = s.ip) : s.showPrompt.recv = .blocked t := by
  rcases execInput_cases h with ⟨e, -, rfl⟩ | ⟨k, -, ⟨e, rfl⟩ | ⟨v, s', hrecv, -, rfl⟩ | hblocked⟩
  · cases hrun
  · cases hrun
  · have hkept : s'.ip = s.ip := by rw [State.recv_value hrecv, State.showPrompt_ip]
    simp [hkept] at hip
  · exact hblocked

theorem State.recv_blocked_mem {s s' : State} (h : s.recv = .blocked s') : s'.mem = s.mem := by
  rw [State.recv_blocked h]

theorem State.recv_blocked_progLen {s s' : State} (h : s.recv = .blocked s') : s'.progLen = s.progLen := by
  rw [State.recv_blocked h]

/-- Settles O53: the answers are read off the memory and `N`, which neither `ip`, `rb` and `ext` nor a waiting Input
touch. -/
theorem inspectShowsDensePrefix : Obligations.InspectShowsDensePrefix := by
  intro s
  refine ⟨s.inspectMemory_length, fun _ => s.inspectMemory_getElem?, s.getValueAt_eq_read,
    fun _ => State.read_eq_zero_of_not_mem_ext, ?independent, ?waiting⟩
  case independent =>
    intro ip rb ext
    exact ⟨State.inspectMemory_congr rfl rfl, State.getValueAt_congr rfl⟩
  case waiting =>
    intro d t hexec hrun hip
    rw [exec_input] at hexec
    have hblocked := execInput_waits hexec hrun hip
    have hmem : t.mem = s.mem := (State.recv_blocked_mem hblocked).trans s.showPrompt_mem
    have hlen : t.progLen = s.progLen := (State.recv_blocked_progLen hblocked).trans s.showPrompt_progLen
    exact ⟨State.inspectMemory_congr hmem hlen, State.getValueAt_congr hmem⟩

end Sys2Proof.Machine
end

section
/-! Decoding against encoding and the opcode map (spec/30_encoding.md, sections 1 to 4), continued: the loop over the
parameters reads back the mode digits the encoder wrote, which words have no opcode, and which digits are not read. -/

namespace Sys2Proof

/-! ### The digits an instruction word spells -/

/-- One more mode digit above the digits of `n`. -/
theorem add_digit_lt {n p : Nat} (hn : n < 10 ^ (p + 1)) (o : Operand) : n + o.mode * 10 ^ (p + 1) < 10 ^ (p + 1 + 1) := by
  have hmode := o.mode_lt
  rw [Nat.pow_succ 10 (p + 1)]
  nlinarith

/-- Mode digits stand above the digits below them and are no more than their count (spec/30_encoding.md R80). -/
theorem add_modesNumber_lt {n p : Nat} (hn : n < 10 ^ (p + 1)) (os : List Operand) :
    n + modesNumber p os < 10 ^ (p + 1 + os.length) := by
  induction os generalizing n p with
  | nil => exact hn
  | cons o os ih =>
    have hrest := ih (add_digit_lt hn o)
    rwa [Nat.add_assoc, Nat.add_right_comm] at hrest

theorem pow_dvd_modesNumber (p : Nat) (os : List Operand) : 10 ^ (p + 1) ∣ modesNumber p os := by
  induction os generalizing p with
  | nil => exact Nat.dvd_zero _
  | cons o os ih => exact Nat.dvd_add (Nat.dvd_mul_left _ _) ((Nat.pow_dvd_pow 10 (Nat.le_succ _)).trans (ih (p + 1)))

/-- The digit of parameter `p` is the mode of the operand that stands first from `p` on. -/
theorem modeDigit_add_modesNumber {n p : Nat} (hn : n < 10 ^ (p + 1)) (o : Operand) (os : List Operand) :
    modeDigit (n + modesNumber p (o :: os)) p = o.mode := by
  obtain ⟨m, hm⟩ := pow_dvd_modesNumber (p + 1) os
  have hmode := o.mode_lt
  have hsplit : n + modesNumber p (o :: os) = n + 10 ^ (p + 1) * (o.mode + 10 * m) := by
    rw [modesNumber, hm, Nat.pow_succ 10 (p + 1)]
    ring
  rw [modeDigit, hsplit, Nat.add_mul_div_left _ _ (by positivity), Nat.div_eq_of_lt hn]
  omega

/-- The loop over the parameters undoes the encoder: each operand has its own digit and its own cell (R80, R89). -/
theorem decodeParams_modesNumber {n p : Nat} (hn : n < 10 ^ (p + 1)) (os : List Operand) :
    decodeParams (n + modesNumber p os) p (os.map Operand.raw) = .ok os := by
  induction os generalizing n p with
  | nil => rfl
  | cons o os ih =>
    have hfirst : decodeParam (n + modesNumber p (o :: os)) p o.raw = .ok o := by
      rw [decodeParam, modeDigit_add_modesNumber hn, operandOf_mode]
    rw [List.map_cons, decodeParams_cons_ok hfirst, modesNumber, ← Nat.add_assoc, ih (add_digit_lt hn o)]
    rfl

/-- The digits of an instruction word are at most five. -/
theorem Instr.digits_lt (i : Instr) : i.opcode.number + modesNumber 1 i.operands < 10 ^ 5 := by
  have harity : 1 + 1 + i.operands.length ≤ 5 := by
    have := i.opcode.arity_le
    rw [i.operands_length]
    omega
  exact (add_modesNumber_lt (p := 1) i.opcode.number_lt i.operands).trans_le (Nat.pow_le_pow_right (by decide) harity)

theorem Instr.word_toNat (i : Instr) : i.word.toNat = i.opcode.number + modesNumber 1 i.operands :=
  Laws.word_toNat_of_lt rfl i.digits_lt

theorem Instr.word_nonneg (i : Instr) : 0 ≤ i.word.toInt := by
  have hlt := i.digits_lt
  rw [val_nonneg_iff, i.word_toNat, dataSpace]
  omega

theorem Instr.word_mod (i : Instr) : i.word.toNat % 100 = i.opcode.number := by
  obtain ⟨m, hm⟩ := pow_dvd_modesNumber 1 i.operands
  have hlt := i.opcode.number_lt
  rw [i.word_toNat, hm]
  omega

/-! ### From the loop's result to the instruction -/

theorem except_map_injective {ε α β : Type} {g : α → β} (hg : Function.Injective g) :
    Function.Injective (Except.map (ε := ε) g)
  | .error _, .error _, h => congrArg _ (Except.error.inj h)
  | .ok _, .ok _, h => congrArg _ (hg (Except.ok.inj h))

/-- The instruction of a row of the opcode map with the given operands, on the lists as long as the row's arity: what
`Instr.parts` took apart. -/
def instrOfParts : Opcode × List Operand → Instr
  | (.add, [a, b, d]) => .add a b d
  | (.multiply, [a, b, d]) => .multiply a b d
  | (.input, [d]) => .input d
  | (.output, [a]) => .output a
  | (.jumpIfTrue, [a, b]) => .jumpIfTrue a b
  | (.jumpIfFalse, [a, b]) => .jumpIfFalse a b
  | (.lessThan, [a, b, d]) => .lessThan a b d
  | (.equals, [a, b, d]) => .equals a b d
  | (.adjustRelativeBase, [a]) => .adjustRelativeBase a
  | _ => .halt

/-- Opcode and operands determine the instruction. -/
theorem Instr.parts_injective : Function.Injective Instr.parts :=
  Function.LeftInverse.injective (g := instrOfParts) fun i => by cases i <;> rfl

/-- The parameters are all that decoding reads of the word once the opcode is known. -/
theorem decodeOperands_congr {op : Opcode} {w w' : Nat} {c1 c2 c3 : Val}
    (h : decodeParams w 1 ([c1, c2, c3].take op.arity) = decodeParams w' 1 ([c1, c2, c3].take op.arity)) :
    decodeOperands op w c1 c2 c3 = decodeOperands op w' c1 c2 c3 :=
  except_map_injective Instr.parts_injective (by rw [decodeOperands_parts, decodeOperands_parts, h])

theorem decodeOperands_of_decodeParams {i : Instr} {w : Nat} {c1 c2 c3 : Val}
    (h : decodeParams w 1 ([c1, c2, c3].take i.opcode.arity) = .ok i.operands) :
    decodeOperands i.opcode w c1 c2 c3 = .ok i :=
  except_map_injective Instr.parts_injective (by rw [decodeOperands_parts, h]; rfl)

/-- The instruction's own word decodes to it on cells that begin with its raw operands. -/
theorem decodeCells_word {i : Instr} {c1 c2 c3 : Val}
    (hcells : [c1, c2, c3].take i.opcode.arity = i.operands.map Operand.raw) :
    decodeCells i.word c1 c2 c3 = .ok (i, i.size) := by
  have hparams : decodeParams i.word.toNat 1 ([c1, c2, c3].take i.opcode.arity) = .ok i.operands := by
    rw [hcells, i.word_toNat]
    exact decodeParams_modesNumber i.opcode.number_lt i.operands
  rw [decodeCells_of_opcode i.word_nonneg i.word_mod, decodeOperands_of_decodeParams hparams]
  rfl

/-- The first cells of a list are those the decoder looks up in it. -/
theorem take_three_getD {n : Nat} (hn : n ≤ 3) {cs : List Val} (hlen : n ≤ cs.length) :
    [cs.getD 0 0, cs.getD 1 0, cs.getD 2 0].take n = cs.take n := by
  match cs, n with
  | _, 0 => rfl
  | _ :: _, 1 => rfl
  | _ :: _ :: _, 2 => rfl
  | _ :: _ :: _ :: _, 3 => rfl

/-- Settles O1: the loop reads back the operands the encoder wrote, from the word's digits and the cells after it. -/
theorem decodeOfEncodeIsIdentity : Obligations.DecodeOfEncodeIsIdentity := by
  intro i rest
  have hlen : (i.operands.map Operand.raw).length = i.opcode.arity := by simp
  refine decodeCells_word ?_
  rw [← hlen]
  refine (take_three_getD (cs := i.operands.map Operand.raw ++ rest) ?_ ?_).trans List.take_left
  · rw [hlen]
    exact i.opcode.arity_le
  · simp

/-! ### Words without an opcode -/

theorem opcodeOf_eq_none_iff_range {n : Nat} (hn : n < 100) : opcodeOf n = none ↔ n = 0 ∨ 10 ≤ n ∧ n ≤ 98 := by
  rw [opcodeOf_eq_none]
  constructor
  · intro h
    have h99 := h .halt
    by_contra hout
    have hrow : 1 ≤ n ∧ n ≤ 9 := by simp only [Opcode.number] at h99; omega
    obtain ⟨hlow, hhigh⟩ := hrow
    have hall : ∀ op ∈ Opcode.all, op.number ≠ n := fun op _ => h op
    interval_cases n <;> exact absurd hall (by decide)
  · rintro h op rfl
    cases op <;> simp [Opcode.number] at h

/-- A non-negative word is UnknownOpcode exactly if no row of the opcode map has its two low digits. -/
theorem decodeCells_unknownOpcode_iff {w c1 c2 c3 : Val} (hnonneg : 0 ≤ w.toInt) :
    decodeCells w c1 c2 c3 = .error (.unknownOpcode w) ↔ opcodeOf (w.toNat % 100) = none := by
  cases hop : opcodeOf (w.toNat % 100) with
  | none => simp [decodeCells, hnonneg.not_gt, hop]
  | some op =>
    simp only [reduceCtorEq, iff_false]
    intro hdec
    obtain ⟨q, hfault, -⟩ := (decodeCells_eq_error_iff hnonneg (opcodeOf_eq_some.1 hop)).1 hdec
    cases hfault

/-- Settles O6: a negative word is refused before its digits are read, and another one by its two low digits. -/
theorem unknownOpcodeExactly : Obligations.UnknownOpcodeExactly := by
  intro w c1 c2 c3
  rcases lt_or_ge w.toInt 0 with hneg | hnonneg
  · exact iff_of_true (decodeCells_of_neg hneg c1 c2 c3) (.inl hneg)
  · rw [decodeCells_unknownOpcode_iff hnonneg, opcodeOf_eq_none_iff_range (Nat.mod_lt _ (by decide))]
    simp [hnonneg.not_gt]

/-! ### Digits that are not read -/

/-- A mode digit is one of the low digits of the word. -/
theorem modeDigit_mod {w p k : Nat} (hp : p + 2 ≤ k) : modeDigit (w % 10 ^ k) p = modeDigit w p := by
  have hdvd : 10 ^ (p + 2) ∣ 10 ^ k := Nat.pow_dvd_pow 10 hp
  have hpow : ∀ v, modeDigit v p = v % 10 ^ (p + 2) / 10 ^ (p + 1) := fun v => by
    rw [modeDigit, Nat.pow_succ 10 (p + 1), Nat.mod_mul_right_div_self]
  rw [hpow, hpow, Nat.mod_mod_of_dvd _ hdvd]

/-- The loop reads no digit above that of its last parameter. -/
theorem decodeParams_congr {w w' p k : Nat} {cs : List Val} (hlow : w % 10 ^ k = w' % 10 ^ k)
    (hk : p + cs.length + 1 ≤ k) : decodeParams w p cs = decodeParams w' p cs := by
  induction cs generalizing p with
  | nil => rfl
  | cons c cs ih =>
    rw [List.length_cons] at hk
    have hdigit : modeDigit w p = modeDigit w' p := by
      rw [← modeDigit_mod (k := k) (by omega), hlow, modeDigit_mod (by omega)]
    simp only [decodeParams, decodeParam, hdigit, ih (p := p + 1) (by omega)]

/-- Settles O8: the low digits hold the opcode's and every mode digit the loop reads. -/
theorem higherDigitsIgnored : Obligations.HigherDigitsIgnored := by
  intro w w' c1 c2 c3 op hnonneg hnonneg' hop hlow
  have hop' : w'.toNat % 100 = op.number := by
    have hdvd : 10 ^ 2 ∣ 10 ^ (op.arity + 2) := Nat.pow_dvd_pow 10 (Nat.le_add_left 2 op.arity)
    have hmod := congrArg (· % 10 ^ 2) hlow
    simp only [Nat.mod_mod_of_dvd _ hdvd] at hmod
    exact hmod.symm.trans hop
  have hparams : decodeParams w.toNat 1 ([c1, c2, c3].take op.arity)
      = decodeParams w'.toNat 1 ([c1, c2, c3].take op.arity) := by
    refine decodeParams_congr hlow ?_
    rw [List.length_take]
    omega
  rw [decodeCells_of_opcode hnonneg hop, decodeCells_of_opcode hnonneg' hop', decodeOperands_congr hparams]

/-! ### Samples -/

/-- Settles O3: each of the eleven words is closed, so the decoder computes its instruction. -/
theorem sampleWordsDecode : Obligations.SampleWordsDecode :=
  ⟨by decide, by decide, by decide, by decide, by decide, by decide, by decide, by decide, by decide, by decide,
    by decide⟩

end Sys2Proof
end

section
/-! Main memory and the materialisation set under any instruction (spec/20_memory.md R52, R53, R60). Whatever an
instruction does, it changes them by one checked store at the most, and so does a step; the invariants of memory are
kept because `State.store` keeps them. -/

namespace Sys2Proof.Machine

/-! ### The write and the read of one cell -/

/-- A write with no room is refused, naming the address. -/
theorem State.memWrite_noRoom {s : State} {a : Nat} (h : ¬ s.HasRoom a) (v : Val) :
    s.memWrite a v = .error ⟨.memoryExhausted, .address a⟩ :=
  if_neg (mt (s.roomFor_iff_hasRoom a).1 h)

theorem State.memWrite_room {s : State} {a : Nat} (h : s.HasRoom a) (v : Val) : s.memWrite a v = .ok (s.store a v) :=
  if_pos ((s.roomFor_iff_hasRoom a).2 h)

/-- Settles O11: the check of the write is `HasRoom`, and what it lets through is a store. -/
theorem memWriteStoresOrExhausts : Obligations.MemWriteStoresOrExhausts := fun _ a v hwf =>
  ⟨fun hroom => ⟨_, State.memWrite_room hroom v, State.stored_store hwf a v⟩, fun hfull => State.memWrite_noRoom hfull v⟩

/-- Settles O12: a cell that is not materialised is not listed in memory. -/
theorem unmaterialisedReadsZero : Obligations.UnmaterialisedReadsZero :=
  fun _ _ hwf habove hext => State.read_eq_zero_of_not_mem_ext hwf habove hext

/-! ### What an instruction does to memory -/

/-- The memory of `t`, its materialisation set, its `N` and its capacity are those of `s`. -/
structure State.SameMemory (s t : State) : Prop where
  mem : t.mem = s.mem
  ext : t.ext = s.ext
  progLen : t.progLen = s.progLen
  memCapacity : t.memCapacity = s.memCapacity

theorem State.SameMemory.trans {s t u : State} (hst : s.SameMemory t) (htu : t.SameMemory u) : s.SameMemory u :=
  ⟨htu.mem.trans hst.mem, htu.ext.trans hst.ext, htu.progLen.trans hst.progLen, htu.memCapacity.trans hst.memCapacity⟩

theorem State.SameMemory.roomFor {s t : State} (h : s.SameMemory t) (k : Nat) : t.roomFor k = s.roomFor k := by
  simp only [State.roomFor, h.ext, h.progLen, h.memCapacity]

theorem State.SameMemory.store {s t : State} (h : s.SameMemory t) (k : Nat) (v : Val) :
    (s.store k v).SameMemory (t.store k v) where
  mem := by rw [State.store_mem, State.store_mem, h.mem]
  ext := by rw [State.store_ext, State.store_ext, h.ext, h.progLen]
  progLen := h.progLen
  memCapacity := h.memCapacity

theorem State.start_sameMemory (s : State) : s.SameMemory s.start := ⟨rfl, rfl, rfl, rfl⟩

theorem State.showPrompt_sameMemory (s : State) : s.SameMemory s.showPrompt :=
  ⟨s.showPrompt_mem, s.showPrompt_ext, s.showPrompt_progLen, s.showPrompt_memCapacity⟩

theorem State.recv_value_sameMemory {s s' : State} {v : Val} (h : s.recv = .value v s') : s.SameMemory s' := by
  rw [State.recv_value h]
  exact ⟨rfl, rfl, rfl, rfl⟩

theorem State.recv_blocked_sameMemory {s s' : State} (h : s.recv = .blocked s') : s.SameMemory s' := by
  rw [State.recv_blocked h]
  exact ⟨rfl, rfl, rfl, rfl⟩

/-- Between `s` and `t` memory changed by one store at the most, to a data address with room for it. -/
inductive State.StoresAtMostOnce (s t : State) : Prop where
  | unchanged (h : s.SameMemory t)
  | stored (k : Nat) (v : Val) (hk : k < dataSpace) (hroom : s.roomFor k = true) (h : (s.store k v).SameMemory t)

theorem Effect.storesAtMostOnce {s t : State} (h : Effect s t) : s.StoresAtMostOnce t := by
  cases h with
  | stored k v hk hroom => exact .stored k v hk hroom ⟨rfl, rfl, rfl, rfl⟩
  | received k v s' hrecv hk hroom =>
    have hsame := s.showPrompt_sameMemory.trans (State.recv_value_sameMemory hrecv)
    exact .stored k v hk (hsame.roomFor k ▸ hroom) ((hsame.store k v).trans ⟨rfl, rfl, rfl, rfl⟩)
  | waited _ hrecv => exact .unchanged (s.showPrompt_sameMemory.trans (State.recv_blocked_sameMemory hrecv))
  | promptedFault e => exact .unchanged (s.showPrompt_sameMemory.trans ⟨rfl, rfl, rfl, rfl⟩)
  | fault | sent | jumped | passed | adjusted | halted => exact .unchanged ⟨rfl, rfl, rfl, rfl⟩

/-- Setting `started` and taking a decode fault store nothing, so a step stores as its instruction does. -/
theorem step_storesAtMostOnce {s t : State} (h : step s = .next t) : s.StoresAtMostOnce t := by
  rcases step_cases h with ⟨-, rfl⟩ | ⟨-, -, f, -, rfl⟩ | ⟨-, -, i, n, -, hexec⟩
  · exact .unchanged s.start_sameMemory
  · exact .unchanged (s.start_sameMemory.trans ⟨rfl, rfl, rfl, rfl⟩)
  · cases (exec_effect hexec).storesAtMostOnce with
    | unchanged h => exact .unchanged ⟨h.mem, h.ext, h.progLen, h.memCapacity⟩
    | stored k v hk hroom h => exact .stored k v hk hroom ⟨h.mem, h.ext, h.progLen, h.memCapacity⟩

/-! ### Canonical memory -/

/-- Settles O43: the one store of a step is a `Memory.write`, which keeps the canonical form. -/
theorem stepKeepsCanonicalMemory : Obligations.StepKeepsCanonicalMemory := by
  intro s t hwf hstep
  cases step_storesAtMostOnce hstep with
  | unchanged h => rwa [h.mem]
  | stored k v _ _ h =>
    rw [h.mem, State.store_mem]
    exact Memory.write_wf hwf k v

/-! ### The materialisation set -/

theorem State.ExtWf.of_sameMemory {s t : State} (hwf : s.ExtWf) (h : s.SameMemory t) : t.ExtWf := by
  obtain ⟨hrising, habove, hcovers, hcap⟩ := hwf
  constructor <;> simpa only [h.mem, h.ext, h.progLen, h.memCapacity]

/-- A store that passed its check leaves the set within the capacity. -/
theorem State.store_capacity {s : State} (hwf : s.ExtWf) {k : Nat} (v : Val) (hroom : s.roomFor k = true) {cap : Nat}
    (hcap : s.memCapacity = some cap) : (s.store k v).ext.length ≤ cap := by
  have hold := hwf.capacity cap hcap
  rw [State.store_ext]
  split
  · exact hold
  · rcases (s.roomFor_iff k).1 hroom cap hcap with hdense | hmem | hfree
    · contradiction
    · rwa [extInsert_of_mem hwf.rising hmem]
    · exact (extInsert_length_le s.ext k).trans hfree

/-- What is materialised after a store: as before, and the written address if it is at or above `N`. -/
theorem State.mem_store_ext {s : State} {k a : Nat} {v : Val} :
    a ∈ (s.store k v).ext ↔ a ∈ s.ext ∨ a = k ∧ s.progLen ≤ k := by
  rw [State.store_ext]
  split
  case isTrue hdense => simp [hdense.not_ge]
  case isFalse hsparse => simp [Nat.le_of_not_lt hsparse]

theorem State.store_extWf {s : State} (hwf : s.ExtWf) {k : Nat} (v : Val) (hroom : s.roomFor k = true) :
    (s.store k v).ExtWf where
  rising := by
    rw [State.store_ext]
    split
    · exact hwf.rising
    · exact extInsert_rising hwf.rising k
  above a ha := by
    rcases State.mem_store_ext.1 ha with hold | ⟨rfl, habove⟩
    · exact hwf.above a hold
    · exact habove
  covers c hc habove := by
    refine State.mem_store_ext.2 ?_
    rcases Memory.mem_write hc with hold | rfl
    · exact .inl (hwf.covers c hold habove)
    · exact .inr ⟨rfl, habove⟩
  capacity _ := State.store_capacity hwf v hroom

/-- Settles O44: the one store of a step has passed the capacity check and materialises what it writes. -/
theorem stepKeepsMaterialisationSet : Obligations.StepKeepsMaterialisationSet := by
  intro s t hwf hstep
  cases step_storesAtMostOnce hstep with
  | unchanged h => exact hwf.of_sameMemory h
  | stored k v _ hroom h => exact (State.store_extWf hwf v hroom).of_sameMemory h

/-! ### The address bounds -/

/-- A cell that does not read 0 has an address below the bound of all cells. -/
theorem State.lt_dataSpace_of_read_ne_zero {s : State} (hb : s.Bounded) {a : Nat} (h : s.read a ≠ 0) : a < dataSpace := by
  obtain ⟨c, hc, rfl⟩ := Memory.mem_of_read_ne_zero h
  exact hb.cells c hc

/-- The word 0 is no instruction: no opcode has the number 0 (spec/30_encoding.md R90). -/
theorem State.read_ne_zero_of_decodeAt {s : State} {a n : Nat} {i : Instr} (h : s.decodeAt a = .ok (i, n)) :
    s.read a ≠ 0 := by
  intro hzero
  have hnumber : i.opcode.number = (s.read a).toNat % 100 := (parts_of_decodeCells h).1
  rw [hzero] at hnumber
  cases hop : i.opcode <;> simp [hop, Opcode.number] at hnumber

/-- An instruction moves `ip` at most 4 cells on, or to a data address. -/
theorem Effect.ip_le {s t : State} (h : Effect s t) : t.ip ≤ s.ip + 4 ∨ t.ip < dataSpace := by
  cases h with
  | jumped k hk => exact .inr hk
  | received k v s' hrecv =>
    left
    rw [State.advance_ip, State.store_ip, State.recv_value hrecv, State.showPrompt_ip]
    omega
  | waited _ hrecv =>
    left
    rw [State.recv_blocked hrecv, State.showPrompt_ip]
    omega
  | promptedFault e =>
    left
    rw [State.raise_ip, State.showPrompt_ip]
    omega
  | fault | stored | sent | passed | adjusted | halted => exact .inl (by simp)

/-- `ip` moves only from an instruction word, which stands below `2^63`, so it stays at most `2^63 + 3`
(spec/10_state.md R24). -/
theorem step_ip_le {s t : State} (hb : s.Bounded) (hstep : step s = .next t) : t.ip ≤ dataSpace + 3 := by
  rcases step_cases hstep with ⟨-, rfl⟩ | ⟨-, -, f, -, rfl⟩ | ⟨-, -, i, n, hdec, hexec⟩
  · exact hb.ip
  · exact hb.ip
  · have hip : s.ip < dataSpace := State.lt_dataSpace_of_read_ne_zero hb (State.read_ne_zero_of_decodeAt hdec)
    rcases (exec_effect hexec).ip_le with hnear | hdata
    · rw [State.start_ip] at hnear
      omega
    · omega

/-- Settles O45: a step stores at data addresses only, and `ip` moves from a cell below `2^63`. -/
theorem stepKeepsAddressBounds : Obligations.StepKeepsAddressBounds := by
  intro s t hb hstep
  have hip := step_ip_le hb hstep
  cases step_storesAtMostOnce hstep with
  | unchanged h => exact ⟨h.progLen ▸ hb.prog, h.mem ▸ hb.cells, hip⟩
  | stored k v hk _ h =>
    refine ⟨h.progLen ▸ hb.prog, ?_, hip⟩
    intro c hc
    rw [h.mem, State.store_mem] at hc
    rcases Memory.mem_write hc with hold | rfl
    · exact hb.cells c hold
    · exact hk

/-! ### Construction and reset -/

/-- Every cell of a placed list is an old one or stands at one of the list's addresses. -/
theorem Memory.mem_writeList {m : Memory} {a : Nat} {vs : List Val} {c : Nat × Val} (h : c ∈ m.writeList a vs) :
    c ∈ m ∨ c.1 < a + vs.length := by
  induction vs generalizing m a with
  | nil => exact .inl h
  | cons v vs ih =>
    rw [List.length_cons]
    rcases ih h with hc | hlt
    · rcases Memory.mem_write hc with hold | rfl
      · exact .inl hold
      · exact .inr (by simp)
    · exact .inr (by omega)

/-- The cells of a constructed engine are those of its program. -/
theorem State.construct_cell_lt {prog : List Val} {setup : Setup} {c : Nat × Val}
    (h : c ∈ (State.construct prog setup).mem) : c.1 < prog.length := by
  simpa using (Memory.mem_writeList h).resolve_left (List.not_mem_nil)

/-- Settles O50: the cells are the program's, so nothing stands at or above `N`, and the engine runs. -/
theorem constructionMeetsInvariants : Obligations.ConstructionMeetsInvariants := by
  intro prog setup hlen
  refine ⟨Memory.writeList_wf Memory.wf_nil 0 prog, ?ext, ?bounds, trivial⟩
  case ext =>
    exact ⟨.nil, fun _ ha => absurd ha List.not_mem_nil,
      fun c hc habove => absurd (State.construct_cell_lt hc) habove.not_gt, fun _ _ => Nat.zero_le _⟩
  case bounds => exact ⟨hlen, fun c hc => (State.construct_cell_lt hc).trans_le hlen, Nat.zero_le _⟩

/-- Settles O47: the reset state is construction from the empty program. -/
theorem resetMeetsInvariants : Obligations.ResetMeetsInvariants :=
  constructionMeetsInvariants [] {} (Nat.zero_le _)

end Sys2Proof.Machine
end

section
/-! Everything each instruction can do, said once by instruction (spec/30_encoding.md R84): `Effect` says what an
instruction may do, `InstrEffect` which one does it. The rules about all instructions are read off it. -/

namespace Sys2Proof.Machine

/-! ### The effect of each instruction -/

/-- The opcodes of the four instructions with two sources and a destination. -/
def threeOperandOpcodes : List Opcode := [.add, .multiply, .lessThan, .equals]

/-- What instruction `i` can do to the state `s`. -/
inductive InstrEffect (s : State) : Instr → State → Prop where
  | fault (i : Instr) (e : Trap) : InstrEffect s i (s.raise e)
  | promptedFault (d : Operand) (e : Trap) : InstrEffect s (.input d) (s.showPrompt.raise e)
  | stored (i : Instr) (k : Nat) (v : Val) (hi : i.opcode ∈ threeOperandOpcodes) :
      InstrEffect s i ((s.store k v).advance 4)
  | received (d : Operand) (k : Nat) (v : Val) (s' : State) (h : s.showPrompt.recv = .value v s') :
      InstrEffect s (.input d) ((s'.store k v).advance 2)
  | waited (d : Operand) (s' : State) (h : s.showPrompt.recv = .blocked s') : InstrEffect s (.input d) s'
  | sent (a : Operand) (x : Val) (h : s.src a = .ok x) : InstrEffect s (.output a) ((s.send x).advance 2)
  | jumped (i : Instr) (a b : Operand) (y : Val) (k : Nat) (hi : i = .jumpIfTrue a b ∨ i = .jumpIfFalse a b)
      (h : s.src b = .ok y) (hk : toAddr y = .ok k) : InstrEffect s i (s.jump k)
  | passed (i : Instr) (a b : Operand) (hi : i = .jumpIfTrue a b ∨ i = .jumpIfFalse a b) :
      InstrEffect s i (s.advance 3)
  | adjusted (a : Operand) (v : Val) : InstrEffect s (.adjustRelativeBase a) ((s.setRb v).advance 2)
  | halted : InstrEffect s .halt s.halt

theorem threeOperand_instrEffect {op : Val → Val → Except Trap Val} {a b d : Operand} {s t : State} {i : Instr}
    (hi : i.opcode ∈ threeOperandOpcodes) (h : threeOperand op a b d s = .next t) : InstrEffect s i t := by
  rcases threeOperand_cases h with ⟨e, rfl⟩ | ⟨x, y, k, r, -, -, -, -, -, rfl⟩
  · exact .fault i e
  · exact .stored i k r hi

theorem jumpWhen_instrEffect {cond : Val → Bool} {a b : Operand} {s t : State} {i : Instr}
    (hi : i = .jumpIfTrue a b ∨ i = .jumpIfFalse a b) (h : jumpWhen cond a b s = .next t) : InstrEffect s i t := by
  rcases jumpWhen_cases h with ⟨e, rfl⟩ | ⟨x, y, k, -, hb, hk, rfl⟩
  · exact .fault i e
  · split
    · exact .jumped i a b y k hi hb hk
    · exact .passed i a b hi

/-- The inversion of `exec`, by instruction. -/
theorem exec_instrEffect {i : Instr} {s t : State} (h : exec i s = .next t) : InstrEffect s i t := by
  cases i with
  | add a b d | multiply a b d | lessThan a b d | equals a b d =>
    exact threeOperand_instrEffect (by simp [threeOperandOpcodes, Instr.opcode]) h
  | jumpIfTrue a b => exact jumpWhen_instrEffect (.inl rfl) h
  | jumpIfFalse a b => exact jumpWhen_instrEffect (.inr rfl) h
  | input d =>
    rcases execInput_cases h with ⟨e, -, rfl⟩ | ⟨k, -, ⟨e, rfl⟩ | ⟨v, s', hrecv, -, rfl⟩ | hblocked⟩
    · exact .fault _ e
    · exact .promptedFault d e
    · exact .received d k v s' hrecv
    · exact .waited d t hblocked
  | output a =>
    rcases execOutput_cases h with ⟨e, rfl⟩ | ⟨x, hsrc, rfl⟩
    · exact .fault _ e
    · exact .sent a x hsrc
  | adjustRelativeBase a =>
    rcases execAdjustRelativeBase_cases h with ⟨e, rfl⟩ | ⟨x, -, -, rfl⟩
    · exact .fault _ e
    · exact .adjusted a _
  | halt => cases h; exact .halted

/-! ### Receiving, by transport and field by field -/

/-- Everything a receive of a value can be: the oldest of the channel's queue, or the terminal's reply. -/
theorem State.recv_value_cases {s s' : State} {v : Val} (h : s.recv = .value v s') :
    (s.tmode = .channel ∧ ∃ rest, s.inq = v :: rest ∧ s' = s.setInq rest) ∨
    (s.tmode = .interactive ∧ s.reply s.nextEvent = .value v ∧ s' = s.answered) := by
  cases hmode : s.tmode with
  | channel =>
    rw [State.recv_channel hmode, State.recvChannel] at h
    split at h
    next w rest hq => cases h; exact .inl ⟨rfl, rest, hq, rfl⟩
    next => split at h <;> cases h
  | interactive =>
    rw [State.recv_interactive hmode, State.recvTerminal] at h
    split at h
    next w hr => cases h; exact .inr ⟨rfl, hr, rfl⟩
    next => cases h
    next => cases h

/-- Everything a receive without a value yet can be: nothing, or an event of the terminal drawn. -/
theorem State.recv_blocked_cases {s s' : State} (h : s.recv = .blocked s') :
    (s.tmode = .channel ∧ s' = s) ∨ (s.tmode = .interactive ∧ s' = s.drawn) := by
  cases hmode : s.tmode with
  | channel =>
    rw [State.recv_channel hmode, State.recvChannel] at h
    split at h
    next => cases h
    next => split at h <;> cases h; exact .inl ⟨rfl, rfl⟩
  | interactive =>
    rw [State.recv_interactive hmode, State.recvTerminal] at h
    split at h
    next => cases h
    next => cases h; exact .inr ⟨rfl, rfl⟩
    next => cases h

section
variable {s s' : State} {v : Val}

theorem State.recv_value_rb (h : s.recv = .value v s') : s'.rb = s.rb := by rw [State.recv_value h]
theorem State.recv_value_ip (h : s.recv = .value v s') : s'.ip = s.ip := by rw [State.recv_value h]
theorem State.recv_value_outq (h : s.recv = .value v s') : s'.outq = s.outq := by rw [State.recv_value h]
theorem State.recv_blocked_rb (h : s.recv = .blocked s') : s'.rb = s.rb := by rw [State.recv_blocked h]
theorem State.recv_blocked_ip (h : s.recv = .blocked s') : s'.ip = s.ip := by rw [State.recv_blocked h]
theorem State.recv_blocked_outq (h : s.recv = .blocked s') : s'.outq = s.outq := by rw [State.recv_blocked h]
theorem State.recv_blocked_inq (h : s.recv = .blocked s') : s'.inq = s.inq := by rw [State.recv_blocked h]

end

/-! ### Who writes what -/

/-- Settles O38: of all effects only that of AdjustRelativeBase sets `rb`. -/
theorem relativeBaseWrittenOnlyByAdjust : Obligations.RelativeBaseWrittenOnlyByAdjust := by
  intro i s t hexec hrb
  cases exec_instrEffect hexec with
  | adjusted a v => exact ⟨a, rfl⟩
  | received d k v s' hrecv => exact absurd ((State.recv_value_rb hrecv).trans s.showPrompt_rb) hrb
  | waited d _ hrecv => exact absurd ((State.recv_blocked_rb hrecv).trans s.showPrompt_rb) hrb
  | promptedFault d e => exact absurd s.showPrompt_rb hrb
  | fault | stored | sent | jumped | passed | halted => exact absurd rfl hrb

/-- An instruction that does not write memory leaves it and the materialisation set as they were. -/
theorem InstrEffect.memory_of_not_writer {s t : State} {i : Instr} (h : InstrEffect s i t)
    (hi : i.opcode ∉ [Opcode.add, .multiply, .input, .lessThan, .equals]) : t.mem = s.mem ∧ t.ext = s.ext := by
  cases h with
  | stored i k v hi' => exact absurd hi' (by simp_all [threeOperandOpcodes])
  | received | waited | promptedFault => exact absurd (by simp [Instr.opcode]) hi
  | fault | sent | jumped | passed | adjusted | halted => exact ⟨rfl, rfl⟩

theorem InstrEffect.outq_of_not_output {s t : State} {i : Instr} (h : InstrEffect s i t) (hi : ∀ a, i ≠ .output a) :
    t.outq = s.outq := by
  cases h with
  | sent a => exact absurd rfl (hi a)
  | received d k v s' hrecv => exact (State.recv_value_outq hrecv).trans s.showPrompt_outq
  | waited d _ hrecv => exact (State.recv_blocked_outq hrecv).trans s.showPrompt_outq
  | promptedFault d e => exact s.showPrompt_outq
  | fault | stored | jumped | passed | adjusted | halted => rfl

theorem InstrEffect.inq_of_not_input {s t : State} {i : Instr} (h : InstrEffect s i t) (hi : ∀ d, i ≠ .input d) :
    t.inq = s.inq := by
  cases h with
  | received d | waited d | promptedFault d => exact absurd rfl (hi d)
  | fault | stored | sent | jumped | passed | adjusted | halted => rfl

/-- Settles O39: each of the three holds for the contrapositive, that any other instruction keeps the field. -/
theorem writersOfMemoryAndQueues : Obligations.WritersOfMemoryAndQueues := by
  intro i s t hexec
  have heffect := exec_instrEffect hexec
  refine ⟨?memory, ?outq, ?inq⟩
  case memory =>
    intro hchanged
    by_contra hi
    obtain ⟨hmem, hext⟩ := heffect.memory_of_not_writer hi
    exact hchanged.elim (· hmem) (· hext)
  case outq =>
    intro hchanged
    by_contra hi
    exact hchanged (heffect.outq_of_not_output (not_exists.1 hi))
  case inq =>
    intro hchanged
    by_contra hi
    exact hchanged (heffect.inq_of_not_input (not_exists.1 hi))

/-- The registers and constants no instruction writes: `t` has them as `s` has. -/
structure State.SameHost (s t : State) : Prop where
  tmode : t.tmode = s.tmode
  claimed : t.claimed = s.claimed
  started : t.started = s.started
  inOpen : t.inOpen = s.inOpen
  progLen : t.progLen = s.progLen
  memCapacity : t.memCapacity = s.memCapacity
  terminal : t.terminal = s.terminal
  onBadInput : t.onBadInput = s.onBadInput
  onEndOfFile : t.onEndOfFile = s.onEndOfFile

theorem State.SameHost.trans {s t u : State} (hst : s.SameHost t) (htu : t.SameHost u) : s.SameHost u := by
  constructor <;> simp only [htu.tmode, htu.claimed, htu.started, htu.inOpen, htu.progLen, htu.memCapacity, htu.terminal,
    htu.onBadInput, htu.onEndOfFile, hst.tmode, hst.claimed, hst.started, hst.inOpen, hst.progLen, hst.memCapacity,
    hst.terminal, hst.onBadInput, hst.onEndOfFile]

theorem State.showPrompt_sameHost (s : State) : s.SameHost s.showPrompt := by
  constructor <;> simp

theorem State.recv_value_sameHost {s s' : State} {v : Val} (h : s.recv = .value v s') : s.SameHost s' := by
  rw [State.recv_value h]
  constructor <;> rfl

theorem State.recv_blocked_sameHost {s s' : State} (h : s.recv = .blocked s') : s.SameHost s' := by
  rw [State.recv_blocked h]
  constructor <;> rfl

theorem Effect.sameHost {s t : State} (h : Effect s t) : s.SameHost t := by
  cases h with
  | received k v s' hrecv =>
    refine (s.showPrompt_sameHost.trans (State.recv_value_sameHost hrecv)).trans ?_
    constructor <;> rfl
  | waited _ hrecv => exact s.showPrompt_sameHost.trans (State.recv_blocked_sameHost hrecv)
  | promptedFault e =>
    refine s.showPrompt_sameHost.trans ?_
    constructor <;> rfl
  | fault | stored | sent | jumped | passed | adjusted | halted => constructor <;> rfl

theorem exec_sameHost {i : Instr} {s t : State} (h : exec i s = .next t) : s.SameHost t := (exec_effect h).sameHost

/-- Settles O40: no effect has a write to one of these fields. -/
theorem instructionsKeepHostRegisters : Obligations.InstructionsKeepHostRegisters := by
  intro i s t hexec
  obtain ⟨htmode, hclaimed, hstarted, hopen, hlen, hcap, hterminal, hbad, heof⟩ := exec_sameHost hexec
  exact ⟨htmode, hclaimed, hstarted, hopen, hlen, hcap, hterminal, hbad, heof⟩

/-! ### Stopping -/

/-- Settles O41: an instruction other than Halt leaves the status as it was or takes a fault. -/
theorem haltedOnlyByHalt : Obligations.HaltedOnlyByHalt := by
  intro s t hstep hbefore hafter
  rcases step_cases hstep with ⟨-, rfl⟩ | ⟨-, -, f, -, rfl⟩ | ⟨hrun, -, i, n, hdec, hexec⟩
  · exact absurd hafter hbefore
  · cases hafter
  · by_cases hi : i = .halt
    case pos =>
      subst hi
      obtain rfl : n = 1 := State.decodeAt_size hdec
      exact hdec
    case neg =>
      rcases exec_keepsStatusOrFaults hi hexec with hkept | ⟨u, e, rfl⟩
      · rw [hkept, State.start_status, hrun] at hafter
        cases hafter
      · cases hafter

/-- What an instruction of a running engine can do that leaves the engine faulted. -/
theorem InstrEffect.raises {s t : State} {i : Instr} {r : FaultRecord} (h : InstrEffect s i t)
    (hrun : s.status = .running) (hfault : t.status = .faulted r) :
    (∃ e, t = s.raise e) ∨ ∃ d e, i = .input d ∧ t = s.showPrompt.raise e := by
  cases h with
  | fault i e => exact .inl ⟨e, rfl⟩
  | promptedFault d e => exact .inr ⟨d, e, rfl, rfl⟩
  | received d k v s' hrecv =>
    rw [State.advance_status, State.store_status, State.recv_value_status hrecv, s.showPrompt_status, hrun] at hfault
    cases hfault
  | waited d _ hrecv =>
    rw [State.recv_blocked_status hrecv, s.showPrompt_status, hrun] at hfault
    cases hfault
  | stored | sent | jumped | passed | adjusted =>
    have hkept := hrun.symm.trans hfault
    cases hkept
  | halted => cases hfault

/-- Settles O31: a fault is taken by `State.raise`, in the state before or with the prompt of a terminal shown. -/
theorem faultIsPrecise : Obligations.FaultIsPrecise := by
  intro i s t r hexec hrun hfault
  rcases (exec_instrEffect hexec).raises hrun hfault with ⟨e, rfl⟩ | ⟨d, e, rfl, rfl⟩
  · cases hfault
    exact ⟨rfl, rfl, rfl, fun _ => ⟨rfl, rfl⟩⟩
  · cases hfault
    refine ⟨s.showPrompt_ip, ?word, ?frame, ?prompt⟩
    case word => rw [s.showPrompt_ip, s.showPrompt_read]
    case frame =>
      rw [s.showPrompt_ip, s.showPrompt_read]
      exact congrArg (State.raise · e) s.showPrompt_eq
    case prompt =>
      rintro (hchannel | hother)
      · rw [s.showPrompt_channel hchannel]
        exact ⟨rfl, rfl⟩
      · exact absurd rfl (hother d)

end Sys2Proof.Machine
end

section
/-! The step (spec/40_execution_cycle.md R110 to R118; spec/60_exceptions.md R240): what it is in each case of its fetch,
by how much it moves `ip`, and what the next fetch and the next operand see of it. -/

namespace Sys2Proof.Machine

/-! ### The step in each case of its fetch -/

theorem step_of_not_running {s : State} (h : s.status ≠ .running) : step s = .next s.start := by
  rcases s.start.fetch_cases with ⟨-, hfetch⟩ | ⟨hrun, -⟩ | ⟨hrun, -⟩ | ⟨hrun, -⟩
  · rw [step, hfetch]
  all_goals exact absurd hrun h

theorem step_of_decodeAt_ok {s : State} {i : Instr} {n : Nat} (hrun : s.status = .running) (hip : s.ip < 2 ^ 64)
    (hdec : s.decodeAt s.ip = .ok (i, n)) : step s = exec i s.start := by
  have haddr : ¬ addressSpace ≤ s.ip := by simpa [addressSpace] using hip
  have hfetch : s.start.fetch = .instr i := by simp [State.fetch, hrun, haddr, hdec]
  rw [step, hfetch]

/-- Settles O32: the fetch of a stopped engine finds nothing to execute. -/
theorem stoppedEngineExecutesNothing : Obligations.StoppedEngineExecutesNothing := fun _ => step_of_not_running

/-- Settles O33: the four cells are those `State.decodeAt` reads. -/
theorem stepRunsDecodedInstruction : Obligations.StepRunsDecodedInstruction :=
  fun _ _ _ hrun hip hdec => step_of_decodeAt_ok hrun hip hdec

/-- Settles O34: both decode failures are faults the fetching step takes. -/
theorem decodeFaultIsTaken : Obligations.DecodeFaultIsTaken := fun _ hrun hip =>
  ⟨fun _ hdec => step_of_decodeAt_error hrun hip hdec, fun _ _ hdec => step_of_decodeAt_error hrun hip hdec⟩

/-- Settles O48: `ip` is an address, so the step is a stop, a decode fault or an instruction, and each is a next state. -/
theorem stepAlwaysAnswersNext : Obligations.StepAlwaysAnswersNext := by
  intro s hb
  rw [step]
  rcases s.start.fetch_cases with ⟨-, hfetch⟩ | ⟨-, hout, -⟩ | ⟨-, -, f, -, hfetch⟩ | ⟨-, -, i, n, -, hfetch⟩
  · rw [hfetch]
    exact ⟨_, rfl, rfl⟩
  · have hip : s.ip ≤ dataSpace + 3 := hb.ip
    simp only [State.start_ip, addressSpace, dataSpace] at hout hip
    omega
  · rw [hfetch]
    exact ⟨_, rfl, rfl⟩
  · rw [hfetch]
    obtain ⟨t, hexec⟩ := exec_next i s.start
    exact ⟨t, hexec, (exec_sameHost hexec).started⟩

/-! ### How far a step moves `ip` -/

theorem Instr.size_of_threeOperand {i : Instr} (h : i.opcode ∈ threeOperandOpcodes) : i.size = 4 := by
  simp only [threeOperandOpcodes, List.mem_cons, List.not_mem_nil, or_false] at h
  rcases h with h | h | h | h <;> rw [Instr.size, h] <;> rfl

/-- Where an instruction that leaves the engine running leaves `ip`. -/
theorem InstrEffect.ip_of_running {s t : State} {i : Instr} (h : InstrEffect s i t) (hrun : t.status = .running) :
    t.ip = s.ip + i.size ∨
    (∃ a b y, (i = .jumpIfTrue a b ∨ i = .jumpIfFalse a b) ∧ s.src b = .ok y ∧ (t.ip : Int) = y.toInt) ∨
    ∃ d, i = .input d ∧ t.ip = s.ip ∧ t.mem = s.mem ∧ t.inq = s.inq := by
  cases h with
  | fault | promptedFault | halted => cases hrun
  | stored i k v hi => exact .inl (by rw [Instr.size_of_threeOperand hi]; rfl)
  | received d k v s' hrecv =>
    left
    rw [State.advance_ip, State.store_ip, State.recv_value_ip hrecv, s.showPrompt_ip]
    rfl
  | waited d _ hrecv =>
    exact .inr (.inr ⟨d, rfl, (State.recv_blocked_ip hrecv).trans s.showPrompt_ip,
      (State.recv_blocked_mem hrecv).trans s.showPrompt_mem, (State.recv_blocked_inq hrecv).trans s.showPrompt_inq⟩)
  | sent | adjusted => exact .inl rfl
  | jumped i a b y k hi hsrc hk => exact .inr (.inl ⟨a, b, y, hi, hsrc, (toAddr_eq_ok hk).1⟩)
  | passed i a b hi => rcases hi with rfl | rfl <;> exact .inl rfl

/-- Settles O35: the size is that of the instruction decoded before it executed. -/
theorem stepAdvancesBySizeAsDecoded : Obligations.StepAdvancesBySizeAsDecoded := by
  intro s t i n hrun hdec hstep hafter
  rcases step_cases hstep with ⟨hstopped, -⟩ | ⟨-, -, f, -, rfl⟩ | ⟨-, -, j, m, hdec', hexec⟩
  · exact absurd hrun hstopped
  · cases hafter
  · cases hdec.symm.trans hdec'
    rw [State.decodeAt_size hdec]
    exact (exec_instrEffect hexec).ip_of_running hafter

/-! ### What the next step sees -/

/-- A completed write keeps the status. -/
theorem Stored.status {s t : State} {k ip' : Nat} {v : Val} (h : Stored s t k v ip') : t.status = s.status := by
  rw [h.rest]

/-- Settles O36: the next fetch reads memory, where the stored value and the old cells after it stand. -/
theorem storeIsSeenByNextFetch : Obligations.StoreIsSeenByNextFetch := by
  intro a b d s t x y v hwf hrun ha hb hd hsum hroom hexec
  have hrange : InRange (x.toInt + y.toInt) := hsum ▸ inRange_toInt v
  obtain ⟨t', v', hexec', hv', hstored⟩ := addStoresExactSum a b d s x y _ hwf ha hb hd hrange hroom
  cases hexec.symm.trans hexec'
  obtain rfl : v' = v := BitVec.eq_of_toInt_eq (hv'.trans hsum.symm)
  refine ⟨hstored.status.trans hrun, ?_⟩
  rw [hstored.ip, State.decodeAt, hstored.written, hstored.kept _ (by omega), hstored.kept _ (by omega),
    hstored.kept _ (by omega)]

/-- A Relative source whose exact address is a data address reads the cell there (spec/20_memory.md R54). -/
theorem State.src_relative_of_range {s : State} {raw : Val} {n : Int} (hn : s.rb.toInt + raw.toInt = n) (hlow : 0 ≤ n)
    (hhigh : n ≤ 2 ^ 63 - 1) : s.src (.relative raw) = .ok (s.read n.toNat) := by
  obtain ⟨-, -, hvalue⟩ := sourceOperandValue s raw
  rwa [hn, if_neg (by omega), if_neg (by omega)] at hvalue

/-- Settles O37: the new `rb` is the exact sum, and memory is as before. -/
theorem relativeOperandUsesNewBase : Obligations.RelativeOperandUsesNewBase := by
  intro a s t x raw hrun hsrc hexec hafter hlow hhigh
  rw [exec_adjustRelativeBase] at hexec
  rcases execAdjustRelativeBase_cases hexec with ⟨e, rfl⟩ | ⟨x', hsrc', hrange, rfl⟩
  · cases hafter
  · cases hsrc.symm.trans hsrc'
    exact State.src_relative_of_range (congrArg (· + raw.toInt) (toInt_ofInt hrange)) hlow hhigh

end Sys2Proof.Machine
end

section
/-! Where the instructions trap (spec/60_exceptions.md R200 to R212): each check of a shared shape, in the order it is
made, and the claims about the instructions of that shape. -/

namespace Sys2Proof.Machine

/-! ### Three operands -/

section
variable {op : Val → Val → Except Trap Val} {a b d : Operand} {s : State} {x y : Val} {e : Trap}

theorem threeOperand_error_first (ha : s.src a = .error e) : threeOperand op a b d s = .next (s.raise e) := by
  simp [threeOperand, ha, bind, Except.bind]

theorem threeOperand_error_second (ha : s.src a = .ok x) (hb : s.src b = .error e) :
    threeOperand op a b d s = .next (s.raise e) := by
  simp [threeOperand, ha, hb, bind, Except.bind]

theorem threeOperand_error_destination (ha : s.src a = .ok x) (hb : s.src b = .ok y) (hd : s.dst 3 d = .error e) :
    threeOperand op a b d s = .next (s.raise e) := by
  simp [threeOperand, ha, hb, hd, bind, Except.bind]

theorem threeOperand_error_operation {k : Nat} (ha : s.src a = .ok x) (hb : s.src b = .ok y) (hd : s.dst 3 d = .ok k)
    (hop : op x y = .error e) : threeOperand op a b d s = .next (s.raise e) := by
  simp [threeOperand, ha, hb, hd, hop, bind, Except.bind]

theorem threeOperand_noRoom {k : Nat} {r : Val} (ha : s.src a = .ok x) (hb : s.src b = .ok y) (hd : s.dst 3 d = .ok k)
    (hop : op x y = .ok r) (hfull : ¬ s.HasRoom k) :
    threeOperand op a b d s = .next (s.raise ⟨.memoryExhausted, .address k⟩) := by
  simp [threeOperand, ha, hb, hd, hop, State.memWrite_noRoom hfull, bind, Except.bind]

end

/-- The four instructions with two sources and a destination have one shape. -/
theorem exec_eq_threeOperand {a b d : Operand} {i : Instr}
    (hi : i ∈ [Instr.add a b d, .multiply a b d, .lessThan a b d, .equals a b d]) :
    ∃ op, ∀ s, exec i s = threeOperand op a b d s := by
  simp only [List.mem_cons, List.not_mem_nil, or_false] at hi
  rcases hi with rfl | rfl | rfl | rfl <;> exact ⟨_, fun _ => rfl⟩

/-- Settles O26: the checks of the shape before its operation, in order. -/
theorem threeOperandFaultOrder : Obligations.ThreeOperandFaultOrder := by
  intro a b d s i hi
  obtain ⟨op, hexec⟩ := exec_eq_threeOperand hi
  rw [hexec]
  exact ⟨fun _ => threeOperand_error_first, fun _ _ => threeOperand_error_second,
    fun _ _ _ => threeOperand_error_destination⟩

/-- Settles O28: the operation of Add and of Multiply is the range check, which refuses the exact result. -/
theorem arithmeticOverflowFaults : Obligations.ArithmeticOverflowFaults := fun _ _ _ _ _ _ _ ha hb hd =>
  ⟨fun hsum => threeOperand_error_operation (op := addOp) ha hb hd (chk_of_not_inRange hsum),
    fun hprod => threeOperand_error_operation (op := multiplyOp) ha hb hd (chk_of_not_inRange hprod)⟩

/-! ### Conditional jumps -/

section
variable {cond : Val → Bool} {a b : Operand} {s : State} {x y : Val} {e : Trap}

theorem jumpWhen_error_condition (ha : s.src a = .error e) : jumpWhen cond a b s = .next (s.raise e) := by
  simp [jumpWhen, ha, bind, Except.bind]

theorem jumpWhen_error_target (ha : s.src a = .ok x) (hb : s.src b = .error e) :
    jumpWhen cond a b s = .next (s.raise e) := by
  simp [jumpWhen, ha, hb, bind, Except.bind]

theorem jumpWhen_error_address (ha : s.src a = .ok x) (hb : s.src b = .ok y) (hy : toAddr y = .error e) :
    jumpWhen cond a b s = .next (s.raise e) := by
  simp [jumpWhen, ha, hb, hy, bind, Except.bind]

end

/-- The two conditional jumps have one shape. -/
theorem exec_eq_jumpWhen {a b : Operand} {i : Instr} (hi : i ∈ [Instr.jumpIfTrue a b, .jumpIfFalse a b]) :
    ∃ cond, ∀ s, exec i s = jumpWhen cond a b s := by
  simp only [List.mem_cons, List.not_mem_nil, or_false] at hi
  rcases hi with rfl | rfl <;> exact ⟨_, fun _ => rfl⟩

/-- Settles O23: no check of the shape asks whether the jump would be taken. -/
theorem jumpFaultsEagerly : Obligations.JumpFaultsEagerly := by
  intro a b s i hi
  obtain ⟨cond, hexec⟩ := exec_eq_jumpWhen hi
  rw [hexec]
  refine ⟨fun _ => jumpWhen_error_condition, fun _ _ => jumpWhen_error_target, fun x y ha hb hneg => ?_⟩
  exact jumpWhen_error_address ha hb (by rw [toAddr_eq_ite, if_pos hneg])

/-! ### Input on a channel -/

/-- Settles O18: on a channel no prompt is shown, and the receive from an empty queue goes by whether a sender is left. -/
theorem inputOnEmptyChannelWaitsOrFaults : Obligations.InputOnEmptyChannelWaitsOrFaults := by
  intro d s k hchannel hdst hempty
  rw [exec_input, execInput_ok hdst, s.showPrompt_channel hchannel]
  cases hopen : s.inOpen with
  | true =>
    have hrecv : s.recv = .blocked s := by simp [State.recv_channel hchannel, State.recvChannel, hempty, hopen]
    rw [State.inputTo_blocked hrecv, if_pos rfl]
  | false =>
    have hrecv : s.recv = .closed ⟨.channelClosed, .nothing⟩ := by
      simp [State.recv_channel hchannel, State.recvChannel, hempty, hopen]
    rw [State.inputTo_closed hrecv, if_neg Bool.false_ne_true, s.raise_eq_faultedBy]

/-- A receive from a channel with a value queued. -/
theorem State.recv_of_inq_cons {s : State} {v : Val} {rest : List Val} (hchannel : s.tmode = .channel)
    (hqueue : s.inq = v :: rest) : s.recv = .value v (s.setInq rest) := by
  simp [State.recv_channel hchannel, State.recvChannel, hqueue]

/-- A channel Input with a value queued and no room for it takes nothing. -/
theorem execInput_channel_noRoom {d : Operand} {s : State} {k : Nat} {v : Val} {rest : List Val}
    (hchannel : s.tmode = .channel) (hdst : s.dst 1 d = .ok k) (hqueue : s.inq = v :: rest) (hfull : ¬ s.HasRoom k) :
    execInput d s = .next (s.raise ⟨.memoryExhausted, .address k⟩) := by
  have hroom : (s.setInq rest).roomFor k = false := Bool.eq_false_iff.2 (mt (s.roomFor_iff_hasRoom k).1 hfull)
  rw [execInput_ok hdst, s.showPrompt_channel hchannel,
    State.inputTo_noRoom (State.recv_of_inq_cons hchannel hqueue) hroom]

/-- Settles O29: with no room the write of either shape is refused, after every other check has passed. -/
theorem memoryExhaustedFaults : Obligations.MemoryExhaustedFaults := by
  intro a b d s x y v rest k hfull ha hb
  constructor
  case left =>
    intro hd
    exact ⟨fun hsum => threeOperand_noRoom (op := addOp) ha hb hd (chk_of_inRange hsum) hfull,
      fun hprod => threeOperand_noRoom (op := multiplyOp) ha hb hd (chk_of_inRange hprod) hfull,
      threeOperand_noRoom ha hb hd rfl hfull, threeOperand_noRoom ha hb hd rfl hfull⟩
  case right =>
    intro hd hchannel hqueue
    rw [exec_input, execInput_channel_noRoom hchannel hd hqueue hfull, s.raise_eq_faultedBy]

/-! ### Input on the terminal -/

/-- The prompt of an Interactive Input is shown once (spec/42_io.md R148), whichever fields stand for it. -/
theorem State.showPrompt_of_interactive {s : State} (h : s.tmode = .interactive) :
    s.showPrompt = { s with
      prompts := if s.prompted then s.prompts else s.prompts ++ [s.outq.length]
      prompted := true } := by
  rw [s.showPrompt_interactive h]
  cases s
  split <;> simp_all

/-- On the terminal an Input receives what the reply to the next event gives it. -/
theorem State.recv_showPrompt {s : State} (h : s.tmode = .interactive) :
    s.showPrompt.recv = s.showPrompt.recvTerminal s.nextEvent := by
  rw [State.recv_interactive (s.showPrompt_tmode.trans h), s.showPrompt_nextEvent]

theorem State.showPrompt_answered_roomFor (s : State) (k : Nat) : s.showPrompt.answered.roomFor k = s.roomFor k :=
  (s.showPrompt_sameMemory.trans ⟨rfl, rfl, rfl, rfl⟩).roomFor k

section
variable {s : State} {k : Nat} (hterminal : s.tmode = .interactive)
include hterminal

theorem State.recv_showPrompt_value {v : Val} (hreply : s.reply s.nextEvent = .value v) :
    s.showPrompt.recv = .value v s.showPrompt.answered := by
  rw [State.recv_showPrompt hterminal, State.recvTerminal_value (by rw [s.showPrompt_reply, hreply])]

/-- A value from the terminal is stored where there is room, in the state that has answered the prompt. -/
theorem State.inputTo_terminal_value {v : Val} (hreply : s.reply s.nextEvent = .value v) (hroom : s.HasRoom k) :
    s.showPrompt.inputTo k = (s.showPrompt.answered.store k v).advance 2 :=
  State.inputTo_value (State.recv_showPrompt_value hterminal hreply)
    ((s.showPrompt_answered_roomFor k).trans ((s.roomFor_iff_hasRoom k).2 hroom))

theorem State.inputTo_terminal_noRoom {v : Val} (hreply : s.reply s.nextEvent = .value v) (hfull : ¬ s.HasRoom k) :
    s.showPrompt.inputTo k = s.showPrompt.raise ⟨.memoryExhausted, .address k⟩ :=
  State.inputTo_noRoom (State.recv_showPrompt_value hterminal hreply)
    ((s.showPrompt_answered_roomFor k).trans (Bool.eq_false_iff.2 (mt (s.roomFor_iff_hasRoom k).1 hfull)))

theorem State.inputTo_terminal_retry (hreply : s.reply s.nextEvent = .retry) :
    s.showPrompt.inputTo k = s.showPrompt.drawn :=
  State.inputTo_blocked (by
    rw [State.recv_showPrompt hterminal, State.recvTerminal_retry (by rw [s.showPrompt_reply, hreply])])

theorem State.inputTo_terminal_fault {e : Trap} (hreply : s.reply s.nextEvent = .fault e) :
    s.showPrompt.inputTo k = s.showPrompt.raise e :=
  State.inputTo_closed (by
    rw [State.recv_showPrompt hterminal, State.recvTerminal_fault (by rw [s.showPrompt_reply, hreply])])

end

/-- Settles O19: the Input follows the reply, from the state with its prompt shown. -/
theorem inputOnTerminalFollowsEvent : Obligations.InputOnTerminalFollowsEvent := by
  intro d s k hwf hterminal hdst shown reply
  have hshown : s.showPrompt = { s with prompts := shown, prompted := true } := State.showPrompt_of_interactive hterminal
  have hreply : s.reply s.nextEvent = reply := rfl
  refine ⟨s.showPrompt.inputTo k, (exec_input d s).trans (execInput_ok hdst), ?_⟩
  clear_value reply
  cases reply with
  | value v =>
    constructor
    case left =>
      intro hroom
      rw [State.inputTo_terminal_value hterminal hreply hroom, hshown]
      exact (State.stored_store (s := { s with prompts := shown, prompted := false, termDraws := s.termDraws + 1 })
        hwf k v).advance 2
    case right =>
      intro hfull
      rw [State.inputTo_terminal_noRoom hterminal hreply hfull, hshown, State.raise_eq_faultedBy]
  | retry =>
    rw [State.inputTo_terminal_retry hterminal hreply, hshown]
    rfl
  | fault e =>
    rw [State.inputTo_terminal_fault hterminal hreply, hshown, State.raise_eq_faultedBy]

/-! ### Immediate destinations -/

/-- Settles O27: the five words compute to their instructions whatever the cells, decoding undoes encoding for ill-formed
instructions too, and the destination's check refuses the mode. -/
theorem immediateDestinationFaultsWhenExecuted : Obligations.ImmediateDestinationFaultsWhenExecuted := by
  refine ⟨?words, ?executed⟩
  case words =>
    intro w c1 c2 c3 hw
    simp only [List.mem_cons, List.not_mem_nil, or_false] at hw
    rcases hw with rfl | rfl | rfl | rfl | rfl <;> exact ⟨_, _, rfl, rfl⟩
  case executed =>
    intro a b raw x y s rest ha hb
    refine ⟨fun i hi => ⟨?decodes, ?faults⟩, decodeOfEncodeIsIdentity _ rest, ?input⟩
    case decodes =>
      have hsize : i.size = 4 := by
        simp only [List.mem_cons, List.not_mem_nil, or_false] at hi
        rcases hi with rfl | rfl | rfl | rfl <;> rfl
      rw [decodeOfEncodeIsIdentity, hsize]
    case faults =>
      obtain ⟨-, -, hdestination⟩ := threeOperandFaultOrder a b _ s i hi
      exact hdestination x y _ ha hb (s.dst_immediate 3 raw)
    case input => exact inputBadDestinationFaultsAtOnce _ s _ (s.dst_immediate 1 raw)

end Sys2Proof.Machine
end

section
/-! Several engines (spec/60_exceptions.md R230 to R236, R245). A step of engine `k` is a step of its own state, and what
it sent is handed to the engine it is wired to; `System.afterStep` says what that makes of any engine, and the claims about
terminals, isolation and queues are read off it. -/

namespace Sys2Proof.Machine

/-! ### What a step takes from the input queue -/

/-- An instruction takes values from the front of the input queue only. -/
theorem Effect.inq_suffix {s t : State} (h : Effect s t) : t.inq <:+ s.inq := by
  cases h with
  | received k v s' hrecv =>
    rw [State.advance_inq, State.store_inq]
    rcases State.recv_value_cases hrecv with ⟨-, rest, hq, rfl⟩ | ⟨-, -, rfl⟩
    · rw [s.showPrompt_inq] at hq
      exact ⟨[v], hq.symm⟩
    · rw [State.answered_inq, s.showPrompt_inq]
  | waited _ hrecv => rw [State.recv_blocked_inq hrecv, s.showPrompt_inq]
  | promptedFault e => rw [State.raise_inq, s.showPrompt_inq]
  | fault | stored | sent | jumped | passed | adjusted | halted => exact List.suffix_rfl

theorem step_inq_suffix {s t : State} (h : step s = .next t) : t.inq <:+ s.inq := by
  rcases step_cases h with ⟨-, rfl⟩ | ⟨-, -, f, -, rfl⟩ | ⟨-, -, i, n, -, hexec⟩
  · exact List.suffix_rfl
  · exact List.suffix_rfl
  · exact (exec_effect hexec).inq_suffix

/-- What a step took, followed by what it left, is the queue it found. -/
theorem stepTakes_append {s t : State} (h : step s = .next t) : stepTakes s t ++ t.inq = s.inq := by
  obtain ⟨taken, htaken⟩ := step_inq_suffix h
  simp [stepTakes, ← htaken]

theorem step_terminal {s t : State} (h : step s = .next t) : t.terminal = s.terminal := by
  rcases step_cases h with ⟨-, rfl⟩ | ⟨-, -, f, -, rfl⟩ | ⟨-, -, i, n, -, hexec⟩
  · rfl
  · rfl
  · exact (exec_sameHost hexec).terminal

/-! ### One engine of a system replaced -/

@[simp] theorem System.modifyEngine_links (sys : System) (k : Nat) (f : State → State) :
    (sys.modifyEngine k f).links = sys.links := rfl
@[simp] theorem System.modifyEngine_hostSenders (sys : System) (k : Nat) (f : State → State) :
    (sys.modifyEngine k f).hostSenders = sys.hostSenders := rfl

theorem System.modifyEngine_getElem? (sys : System) (k j : Nat) (f : State → State) :
    (sys.modifyEngine k f).slots[j]? =
      sys.slots[j]?.map fun sl => { sl with engine := if k = j then f sl.engine else sl.engine } := by
  rw [System.modifyEngine, List.getElem?_modify]
  cases sys.slots[j]? with
  | none => rfl
  | some sl => by_cases hkj : k = j <;> simp [hkj]

/-! ### A step of one engine -/

/-- Everything a step of engine `k` that answers a system is (R234, R245). -/
theorem System.stepEngine_cases {sys sys' : System} {k : Nat} (h : sys.stepEngine k = .next sys') :
    ∃ sl e, sys.slots[k]? = some sl ∧ step sl.engine = .next e ∧ sys' = (sys.modifyEngine k fun _ => e).deliver k := by
  unfold System.stepEngine System.request at h
  cases hslot : sys.slots[k]? with
  | none => simp [hslot] at h
  | some sl =>
    cases hdropped : sl.dropped with
    | true => simp [hslot, hdropped] at h
    | false =>
      cases hstep : step sl.engine with
      | next e =>
        simp only [hslot, hdropped, hstep, Bool.false_eq_true, if_false, Host.Outcome.next.injEq] at h
        exact ⟨sl, e, rfl, hstep, h.symm⟩
      | fault r => simp [hslot, hdropped, hstep] at h
      | refused r => simp [hslot, hdropped, hstep] at h

/-- What a step of engine `k` that leaves its own state `e` makes of the engine `x` with number `j`: `k` is `e`, its output
queue emptied if it is wired, and who it is wired to has what it sent appended to the input queue. -/
def System.afterStep (sys : System) (k j : Nat) (e x : State) : State :=
  (if k = j then if (sys.consumerOf k).isSome then e.setOutq [] else e else x).enqueue
    (if sys.consumerOf k = some j then e.outq else [])

@[simp] theorem State.enqueue_nil (s : State) : s.enqueue [] = s := by simp [State.enqueue]

theorem System.afterStep_inq (sys : System) (k j : Nat) (e x : State) :
    (sys.afterStep k j e x).inq =
      (if k = j then e.inq else x.inq) ++ if sys.consumerOf k = some j then e.outq else [] := by
  rw [System.afterStep, State.enqueue_inq]
  split
  next => split <;> rfl
  next => rfl

theorem System.afterStep_outq_of_ne (sys : System) {k j : Nat} (h : k ≠ j) (e x : State) :
    (sys.afterStep k j e x).outq = x.outq := by
  simp [System.afterStep, h]

theorem System.afterStep_outq_of_wired (sys : System) {k c : Nat} (h : sys.consumerOf k = some c) (e x : State) :
    (sys.afterStep k k e x).outq = [] := by
  simp [System.afterStep, h]

theorem System.afterStep_terminal (sys : System) (k j : Nat) {e x : State} (h : k = j → e.terminal = x.terminal) :
    (sys.afterStep k j e x).terminal = x.terminal := by
  rw [System.afterStep, State.enqueue_terminal]
  split
  next hkj => split <;> exact h hkj
  next => rfl

theorem System.deliver_of_unwired {sys : System} {k : Nat} (h : sys.consumerOf k = none) : sys.deliver k = sys := by
  simp [System.deliver, h]

theorem System.deliver_of_wired {sys : System} {k c : Nat} {sl : Slot} (hc : sys.consumerOf k = some c)
    (hslot : sys.slots[k]? = some sl) :
    sys.deliver k = (sys.modifyEngine k fun e => e.setOutq []).modifyEngine c fun e => e.enqueue sl.engine.outq := by
  simp [System.deliver, hc, hslot]

/-- `t` has the wiring, the host's senders and the next terminal number of `s`. -/
structure System.SameWiring (s t : System) : Prop where
  links : t.links = s.links
  hostSenders : t.hostSenders = s.hostSenders
  nextTerminal : t.nextTerminal = s.nextTerminal

theorem System.SameWiring.consumerOf {s t : System} (h : s.SameWiring t) (k : Nat) : t.consumerOf k = s.consumerOf k := by
  simp only [System.consumerOf, h.links]

/-- Everything a step of engine `k` does to the system: `System.afterStep` to each engine, and nothing to the wiring. -/
theorem System.stepEngine_slots {sys sys' : System} {k : Nat} (h : sys.stepEngine k = .next sys') :
    sys.SameWiring sys' ∧
      ∃ sl e, sys.slots[k]? = some sl ∧ step sl.engine = .next e ∧
        ∀ j : Nat, sys'.slots[j]? = sys.slots[j]?.map fun x => { x with engine := sys.afterStep k j e x.engine } := by
  obtain ⟨sl, e, hslot, hstep, rfl⟩ := System.stepEngine_cases h
  have hown : (sys.modifyEngine k fun _ => e).slots[k]? = some ⟨e, sl.dropped⟩ := by
    simp [System.modifyEngine_getElem?, hslot]
  cases hc : sys.consumerOf k with
  | none =>
    rw [System.deliver_of_unwired (sys := sys.modifyEngine k fun _ => e) hc]
    refine ⟨⟨rfl, rfl, rfl⟩, sl, e, hslot, hstep, fun j => ?_⟩
    simp [System.modifyEngine_getElem?, System.afterStep, hc]
  | some c =>
    rw [System.deliver_of_wired (sys := sys.modifyEngine k fun _ => e) hc hown]
    refine ⟨⟨rfl, rfl, rfl⟩, sl, e, hslot, hstep, fun j => ?_⟩
    simp only [System.modifyEngine_getElem?, Option.map_map, System.afterStep, hc]
    congr 1
    funext x
    by_cases hkj : k = j <;> by_cases hcj : c = j <;> simp [hkj, hcj]

/-! ### Isolation -/

/-- Settles O58: of another engine the step changes the input queue alone, and that only if `k` is wired to it. -/
theorem engineStepIsIsolated : Obligations.EngineStepIsIsolated := by
  intro sys sys' k j x h hjk hx
  obtain ⟨hwiring, sl, e, -, -, hslots⟩ := System.stepEngine_slots h
  refine ⟨hwiring.links, hwiring.hostSenders, if sys.consumerOf k = some j then e.outq else [], ?slot, fun hnot => if_neg hnot⟩
  case slot =>
    rw [hslots, hx, Option.map_some, System.afterStep, if_neg hjk.symm]
    rfl

/-! ### Terminals -/

/-- The terminal numbers of a system's engines. -/
def System.terminals (sys : System) : List Nat := sys.slots.map fun sl => sl.engine.terminal

theorem System.ownTerminals_iff (sys : System) :
    sys.OwnTerminals ↔ sys.terminals.Nodup ∧ ∀ n ∈ sys.terminals, n < sys.nextTerminal := by
  constructor
  · rintro ⟨hdistinct, hfresh⟩
    exact ⟨hdistinct, List.forall_mem_map.2 hfresh⟩
  · rintro ⟨hdistinct, hfresh⟩
    exact ⟨hdistinct, List.forall_mem_map.1 hfresh⟩

theorem System.addEngine_ownTerminals {sys : System} (h : sys.OwnTerminals) (prog : List Val) (setup : Setup) :
    (sys.addEngine prog setup).OwnTerminals := by
  obtain ⟨hdistinct, hfresh⟩ := sys.ownTerminals_iff.1 h
  have hterminals : (sys.addEngine prog setup).terminals = sys.terminals ++ [sys.nextTerminal] := by
    simp [System.terminals, System.addEngine, State.construct]
  have hnext : (sys.addEngine prog setup).nextTerminal = sys.nextTerminal + 1 := rfl
  rw [System.ownTerminals_iff, hterminals, hnext]
  constructor
  · refine hdistinct.append (List.nodup_singleton _) fun n hn hnew => ?_
    exact absurd (List.mem_singleton.1 hnew) (hfresh n hn).ne
  · intro n hn
    rcases List.mem_append.1 hn with hold | hnew
    · exact (hfresh n hold).trans (Nat.lt_succ_self _)
    · exact Nat.lt_succ_of_le (List.mem_singleton.1 hnew).le

/-- Any engines added one after another keep the numbers distinct. -/
theorem System.foldl_addEngine_ownTerminals {sys : System} (h : sys.OwnTerminals) (progs : List (List Val)) :
    (progs.foldl (fun sys p => sys.addEngine p) sys).OwnTerminals := by
  induction progs generalizing sys with
  | nil => exact h
  | cons p progs ih => exact ih (System.addEngine_ownTerminals h p {})

theorem System.stepEngine_terminals {sys sys' : System} {k : Nat} (h : sys.stepEngine k = .next sys') :
    sys'.terminals = sys.terminals := by
  obtain ⟨-, sl, e, hslot, hstep, hslots⟩ := System.stepEngine_slots h
  refine List.ext_getElem? fun j => ?_
  rw [System.terminals, System.terminals, List.getElem?_map, List.getElem?_map, hslots, Option.map_map]
  refine Option.map_congr fun x hx => System.afterStep_terminal sys k j ?_
  rintro rfl
  cases hslot.symm.trans hx
  exact step_terminal hstep

/-- Settles O57: a new engine gets the next number, and a step changes no engine's. -/
theorem enginesHaveDistinctTerminals : Obligations.EnginesHaveDistinctTerminals := by
  refine ⟨fun progs n => ?constructed, fun sys prog setup h => System.addEngine_ownTerminals h prog setup, ?stepped⟩
  case constructed =>
    exact System.foldl_addEngine_ownTerminals (sys := System.empty n) ⟨List.nodup_nil, by simp [System.empty]⟩ progs
  case stepped =>
    intro sys sys' k h hstep
    obtain ⟨hwiring, -⟩ := System.stepEngine_slots hstep
    rwa [System.ownTerminals_iff, System.stepEngine_terminals hstep, hwiring.nextTerminal, ← System.ownTerminals_iff]

/-! ### The queue between two engines -/

theorem System.observe_of_step {sys : System} {k : Nat} {sl : Slot} {e : State} (hslot : sys.slots[k]? = some sl)
    (hstep : step sl.engine = .next e) (f : State → State → List Val) : sys.observe k f = f sl.engine e := by
  simp [System.observe, hslot, hstep]

theorem stepSends_of_outq_nil {s t : State} (h : s.outq = []) : stepSends s t = t.outq := by
  simp [stepSends, h]

/-- The queue from producer `p` to consumer `c` as it stands in a system: `p` is wired to `c` and nobody else is, what `p`
sent has all been delivered, and `q` is queued at `c`. -/
structure System.Queue (sys : System) (p c : Nat) (q : List Val) : Prop where
  wired : sys.consumerOf p = some c
  only : ∀ j, sys.consumerOf j = some c → j = p
  producer : ∃ sl, sys.slots[p]? = some sl ∧ sl.engine.outq = []
  consumer : ∃ sl, sys.slots[c]? = some sl ∧ sl.engine.inq = q

/-- One step of any engine: what was queued and is then sent is what is taken and then queued. -/
theorem System.Queue.step {sys sys' : System} {k p c : Nat} {q : List Val} (hq : sys.Queue p c q)
    (h : sys.stepEngine k = .next sys') :
    ∃ q', sys'.Queue p c q' ∧
      q ++ (if k = p then sys.observe k stepSends else []) = (if k = c then sys.observe k stepTakes else []) ++ q' := by
  obtain ⟨hwired, honly, ⟨sp, hsp, houtq⟩, sc, hsc, rfl⟩ := hq
  obtain ⟨hwiring, sl, e, hslot, hstep, hslots⟩ := System.stepEngine_slots h
  have hsent : (if k = p then sys.observe k stepSends else []) = if sys.consumerOf k = some c then e.outq else [] := by
    by_cases hkp : k = p
    · subst hkp
      cases hslot.symm.trans hsp
      rw [if_pos rfl, if_pos hwired, System.observe_of_step hslot hstep, stepSends_of_outq_nil houtq]
    · rw [if_neg hkp, if_neg (mt (honly k) hkp)]
  have htaken : sc.engine.inq
      = (if k = c then sys.observe k stepTakes else []) ++ if k = c then e.inq else sc.engine.inq := by
    by_cases hkc : k = c
    · subst hkc
      cases hslot.symm.trans hsc
      rw [if_pos rfl, if_pos rfl, System.observe_of_step hslot hstep, stepTakes_append hstep]
    · rw [if_neg hkc, if_neg hkc, List.nil_append]
  refine ⟨(sys.afterStep k c e sc.engine).inq, ⟨?wired, ?only, ⟨_, by rw [hslots, hsp]; rfl, ?outq⟩,
    { sc with engine := sys.afterStep k c e sc.engine }, ?slot, rfl⟩, ?queue⟩
  case wired => rw [hwiring.consumerOf, hwired]
  case only =>
    intro j hj
    rw [hwiring.consumerOf] at hj
    exact honly j hj
  case outq =>
    by_cases hkp : k = p
    · subst hkp
      exact sys.afterStep_outq_of_wired hwired e sp.engine
    · exact (sys.afterStep_outq_of_ne hkp e sp.engine).trans houtq
  case slot => rw [hslots, hsc]; rfl
  case queue =>
    rw [System.afterStep_inq, hsent, ← List.append_assoc, ← htaken]

/-- Any schedule: the equations of its steps, one after another. -/
theorem System.Queue.run {sys sys' : System} {p c : Nat} {q : List Val} {ks : List Nat} (hq : sys.Queue p c q)
    (h : System.runSchedule ks sys = .next sys') :
    ∃ q', sys'.Queue p c q' ∧
      q ++ System.observeRun p stepSends ks sys = System.observeRun c stepTakes ks sys ++ q' := by
  induction ks generalizing sys q with
  | nil =>
    cases h
    exact ⟨q, hq, List.append_nil q⟩
  | cons k ks ih =>
    rw [System.runSchedule] at h
    cases hstep : sys.stepEngine k with
    | fault r => simp [hstep] at h
    | refused r => simp [hstep] at h
    | next mid =>
      simp only [hstep] at h
      obtain ⟨q1, hq1, hone⟩ := hq.step hstep
      obtain ⟨q', hq', hrest⟩ := ih hq1 h
      refine ⟨q', hq', ?_⟩
      simp only [System.observeRun, hstep]
      rw [← List.append_assoc, hone, List.append_assoc, hrest, List.append_assoc]

/-- Settles O59: the start is a `System.Queue`, and the run's equation is the claim. -/
theorem pipelineKeepsOrder : Obligations.PipelineKeepsOrder := by
  intro sys sys' ks p c sp sc sc' hwired honly hsp houtq hsc hrun hsc'
  have hq : sys.Queue p c sc.engine.inq := ⟨hwired, honly, ⟨sp, hsp, houtq⟩, sc, hsc, rfl⟩
  obtain ⟨q', hq', hflow⟩ := hq.run hrun
  obtain ⟨sl, hsl, rfl⟩ := hq'.consumer
  cases hsl.symm.trans hsc'
  exact hflow

/-! ### Dropping an engine -/

@[simp] theorem System.modifyEngine_alive (sys : System) (k j : Nat) (f : State → State) :
    (sys.modifyEngine k f).alive j = sys.alive j := by
  rw [System.alive, System.alive, System.modifyEngine_getElem?]
  cases sys.slots[j]? <;> rfl

@[simp] theorem System.refreshOpen_senderExists (sys : System) (c j : Nat) :
    (sys.refreshOpen c).senderExists j = sys.senderExists j := by
  simp [System.refreshOpen, System.senderExists]

/-- The system with engine `k` marked as dropped, before the queue it sent to has been looked at. -/
def System.markDropped (sys : System) (k : Nat) : System :=
  { sys with slots := sys.slots.modify k fun sl => { sl with dropped := true } }

theorem System.drop_of_wired {sys : System} {k c : Nat} (halive : sys.alive k = true) (hc : sys.consumerOf k = some c) :
    sys.drop k = .next ((sys.markDropped k).refreshOpen c) := by
  simp [System.drop, halive, hc, System.markDropped]

theorem System.markDropped_getElem?_self {sys : System} {k : Nat} {sl : Slot} (h : sys.slots[k]? = some sl) :
    (sys.markDropped k).slots[k]? = some { sl with dropped := true } := by
  rw [System.markDropped, List.getElem?_modify_eq, h]
  rfl

theorem System.markDropped_getElem?_of_ne (sys : System) {k j : Nat} (h : k ≠ j) :
    (sys.markDropped k).slots[j]? = sys.slots[j]? :=
  List.getElem?_modify_ne _ _ h

/-- A request to a dropped engine is refused (R245). -/
theorem System.stepEngine_of_dropped {sys : System} {k : Nat} {sl : Slot} (h : sys.slots[k]? = some sl)
    (hdropped : sl.dropped = true) : sys.stepEngine k = .refused .engineDropped := by
  simp [System.stepEngine, System.request, h, hdropped]

theorem System.exists_slot_of_alive {sys : System} {k : Nat} (h : sys.alive k = true) : ∃ sl, sys.slots[k]? = some sl := by
  rw [System.alive] at h
  split at h
  next sl hsl => exact ⟨sl, hsl⟩
  next => cases h

/-- A sender the host holds is one. -/
theorem System.senderExists_of_host {sys : System} {c : Nat} (h : c ∈ sys.hostSenders) : sys.senderExists c = true := by
  simp [System.senderExists, h]

/-- With no sender held by the host and none alive wired to it, a queue has no sender. -/
theorem System.senderExists_eq_false {sys : System} {c : Nat} (hhost : c ∉ sys.hostSenders)
    (hlinks : ∀ l ∈ sys.links, l.consumer = c → sys.alive l.producer = false) : sys.senderExists c = false := by
  simp only [System.senderExists, List.contains_eq_mem, hhost, decide_false, Bool.false_or, List.any_eq_false,
    Bool.and_eq_true, beq_iff_eq, not_and, Bool.not_eq_true]
  exact hlinks

/-- Settles O60: the drop marks `k` and sets `in_open` of its consumer to whether a sender is left. -/
theorem dropClosesDownstream : Obligations.DropClosesDownstream := by
  intro sys k c x halive hc hck hx
  obtain ⟨sl, hsl⟩ := System.exists_slot_of_alive halive
  have hk := System.markDropped_getElem?_self hsl
  refine ⟨_, System.drop_of_wired halive hc, ?refused, ?inOpen, ?noSender, ?hostSender⟩
  case refused =>
    refine System.stepEngine_of_dropped (sl := { sl with dropped := true }) ?_ rfl
    rw [System.refreshOpen, System.modifyEngine_getElem?, hk, Option.map_some, if_neg hck]
  case inOpen =>
    rw [System.refreshOpen_senderExists, System.refreshOpen, System.modifyEngine_getElem?,
      sys.markDropped_getElem?_of_ne hck.symm, hx, Option.map_some, if_pos rfl]
    rfl
  case noSender =>
    intro hhost honly
    rw [System.refreshOpen_senderExists]
    refine System.senderExists_eq_false hhost fun l hl hlc => ?_
    rw [honly l hl hlc, System.alive, hk]
    rfl
  case hostSender =>
    intro hhost
    rw [System.refreshOpen_senderExists]
    exact System.senderExists_of_host hhost

end Sys2Proof.Machine
end

section
/-! The host's requests to one engine (spec/60_exceptions.md R240 to R244; spec/70_reset_and_hazards.md R250): construction,
attach, and the step and run requests, whose answers follow the run of single steps. -/

namespace Sys2Proof.Machine

/-! ### Construct -/

/-- A constructed engine reads its program, and 0 behind it. -/
theorem State.construct_read (prog : List Val) (setup : Setup) (a : Nat) :
    (State.construct prog setup).read a = prog.getD a 0 := by
  have hread : (State.construct prog setup).read a = if 0 ≤ a ∧ a < 0 + prog.length then prog.getD (a - 0) 0 else 0 :=
    Memory.read_writeList Memory.wf_nil 0 a prog
  rw [hread]
  split
  next => rfl
  next hout => rw [List.getD_eq_default _ _ (by omega)]

theorem State.construct_inspectMemory (prog : List Val) (setup : Setup) :
    (State.construct prog setup).inspectMemory = prog := by
  refine List.ext_getElem (State.inspectMemory_length _) fun a h1 h2 => ?_
  simp only [State.inspectMemory, List.getElem_map, List.getElem_range, State.construct_read]
  exact List.getD_eq_getElem _ _ h2

/-- Settles O49: what the engine reads is the program; the other fields are those of `State.construct`. -/
theorem constructionGivesResetState : Obligations.ConstructionGivesResetState := fun prog setup =>
  ⟨State.construct_read prog setup, rfl, rfl, rfl, rfl, rfl, rfl, rfl, rfl, State.construct_inspectMemory prog setup,
    ⟨rfl, rfl, rfl, rfl⟩, rfl, rfl, rfl⟩

/-! ### Attach -/

theorem State.attach_of_claimed {s : State} (hclaimed : s.claimed = true) (h : s.isRunning = true ∨ s.started = false) :
    s.attach = .next (s.raise ⟨.doubleTransportClaim, .nothing⟩) := by
  rcases h with h | h <;> simp [State.attach, hclaimed, h]

theorem State.attach_of_stopped {s : State} (hrun : s.isRunning = false) (hstarted : s.started = true) :
    s.attach = .refused .attachAfterStart := by
  simp [State.attach, hrun, hstarted]

theorem State.attach_first {s : State} (hclaimed : s.claimed = false) (hstarted : s.started = false) :
    s.attach = .next s.toChannel := by
  simp [State.attach, hclaimed, hstarted]

theorem State.attach_late {s : State} (hclaimed : s.claimed = false) (hstarted : s.started = true) :
    s.attach = .refused .attachAfterStart := by
  simp [State.attach, hclaimed, hstarted]

/-- Settles O52: the three answers of the request, by `claimed`, `started` and the status. -/
theorem attachOnceBeforeStart : Obligations.AttachOnceBeforeStart := by
  intro s
  refine ⟨State.attach_first, ?second, ?stopped, State.attach_late⟩
  case second =>
    intro hclaimed h
    exact State.attach_of_claimed hclaimed (h.symm.imp_left s.isRunning_iff.2)
  case stopped =>
    intro _ hstarted hstopped
    exact State.attach_of_stopped (Bool.eq_false_iff.2 (mt s.isRunning_iff.1 hstopped)) hstarted

/-! ### Step and run -/

theorem State.hostStep_eq_next {s t : State} {b : Bool} (h : s.hostStep = .next (t, b)) :
    step s = .next t ∧ b = t.isRunning := by
  unfold State.hostStep at h
  cases hstep : step s with
  | next u =>
    simp only [hstep, Host.Outcome.next.injEq, Prod.mk.injEq] at h
    obtain ⟨rfl, rfl⟩ := h
    exact ⟨rfl, rfl⟩
  | fault r => simp [hstep] at h
  | refused r => simp [hstep] at h

theorem State.hostRun_succ_running {s t : State} (hstep : step s = .next t) (hrun : t.status = .running) (fuel : Nat) :
    State.hostRun (fuel + 1) s = State.hostRun fuel t := by
  simp [State.hostRun, hstep, t.isRunning_iff.2 hrun]

theorem State.hostRun_succ_stopped {s t : State} (hstep : step s = .next t) (hstopped : t.status ≠ .running)
    (fuel : Nat) : State.hostRun (fuel + 1) s = .next t.runResult := by
  simp [State.hostRun, hstep, mt t.isRunning_iff.1 hstopped]

/-- A run request that answers has made a step, unless it has no fuel. -/
theorem State.step_of_hostRun_succ {s : State} {fuel : Nat} {r : RunResult}
    (h : State.hostRun (fuel + 1) s = .next r) : ∃ t, step s = .next t := by
  rw [State.hostRun] at h
  cases hstep : step s with
  | next t => exact ⟨t, rfl⟩
  | fault e => simp [hstep] at h
  | refused e => simp [hstep] at h

theorem State.RunsTo.exists_step {s t : State} {n : Nat} (h : s.RunsTo (n + 1) t) : ∃ u, step s = .next u := by
  obtain ⟨h, -⟩ := h
  rw [State.stepN] at h
  cases hstep : step s with
  | next u => exact ⟨u, rfl⟩
  | fault e => simp [hstep] at h
  | refused e => simp [hstep] at h

/-- Where a run request with `fuel` step requests stops: after `n` of them at `t`. -/
structure State.RunStops (s : State) (fuel n : Nat) (t : State) : Prop where
  le : n ≤ fuel
  pos : 0 < fuel → 0 < n
  run : s.RunsTo n t
  stop : n = fuel ∨ t.status ≠ .running

/-- The answer of a run request is that of a state it stops at, and it answers for any such state. -/
theorem State.hostRun_eq_next_iff {fuel : Nat} {s : State} {r : RunResult} :
    State.hostRun fuel s = .next r ↔ ∃ n t, s.RunStops fuel n t ∧ r = t.runResult := by
  induction fuel generalizing s with
  | zero =>
    constructor
    · intro h
      cases h
      exact ⟨0, s, ⟨le_rfl, id, (s.runsTo_zero s).2 rfl, .inl rfl⟩, rfl⟩
    · rintro ⟨n, t, ⟨hle, -, hrun, -⟩, rfl⟩
      obtain rfl : n = 0 := Nat.le_zero.1 hle
      obtain rfl := (s.runsTo_zero t).1 hrun
      rfl
  | succ fuel ih =>
    constructor
    · intro h
      obtain ⟨t, hstep⟩ := State.step_of_hostRun_succ h
      by_cases hrunning : t.status = .running
      case pos =>
        rw [State.hostRun_succ_running hstep hrunning] at h
        obtain ⟨n, u, ⟨hle, -, hrun, hstop⟩, rfl⟩ := ih.1 h
        exact ⟨n + 1, u, ⟨Nat.succ_le_succ hle, fun _ => n.succ_pos,
          (State.runsTo_succ hstep).2 ⟨hrun, fun _ => hrunning⟩, hstop.imp_left (congrArg (· + 1))⟩, rfl⟩
      case neg =>
        rw [State.hostRun_succ_stopped hstep hrunning] at h
        cases h
        exact ⟨1, t, ⟨Nat.succ_le_succ fuel.zero_le, fun _ => Nat.one_pos,
          (State.runsTo_succ hstep).2 ⟨(t.runsTo_zero t).2 rfl, fun h0 => absurd h0 (lt_irrefl 0)⟩, .inr hrunning⟩, rfl⟩
    · rintro ⟨n, t, ⟨hle, hpos, hrun, hstop⟩, rfl⟩
      obtain ⟨n, rfl⟩ : ∃ m, n = m + 1 := ⟨n - 1, by have := hpos fuel.succ_pos; omega⟩
      obtain ⟨u, hstep⟩ := hrun.exists_step
      obtain ⟨hrest, hmid⟩ := (State.runsTo_succ hstep).1 hrun
      by_cases hrunning : u.status = .running
      case pos =>
        rw [State.hostRun_succ_running hstep hrunning]
        refine ih.2 ⟨n, t, ⟨Nat.le_of_succ_le_succ hle, ?pos, hrest, hstop.imp_left Nat.succ.inj⟩, rfl⟩
        case pos =>
          intro hfuel
          by_contra hn
          obtain rfl : n = 0 := by omega
          obtain rfl := (u.runsTo_zero t).1 hrest
          rcases hstop with hlast | hstopped
          · omega
          · exact hstopped hrunning
      case neg =>
        obtain rfl : n = 0 := by
          by_contra hn
          exact hrunning (hmid (Nat.pos_of_ne_zero hn))
        obtain rfl := (u.runsTo_zero t).1 hrest
        rw [State.hostRun_succ_stopped hstep hrunning]

/-- The answer a state stands for tells its status, and the status the answer (R244, R186). -/
theorem State.runResult_iff (t : State) :
    (t.runResult = .success t ↔ t.status = .halted) ∧ (∀ r, t.runResult = .failure r t ↔ t.status = .faulted r) ∧
      (t.runResult = .notEnded t ↔ t.status = .running) := by
  cases h : t.status <;> simp [State.runResult, h]

/-- Settles O51: a step request shows the status after its step, and a run request stops where `State.RunStops` says. -/
theorem requestsReportStatus : Obligations.RequestsReportStatus := by
  refine ⟨?step, fun _ => rfl, ?answers, ?answered, State.runResult_iff⟩
  case step =>
    intro s t b h
    obtain ⟨hstep, rfl⟩ := State.hostStep_eq_next h
    exact ⟨hstep, t.isRunning_iff⟩
  case answers =>
    intro fuel s r hfuel h
    obtain ⟨n, t, ⟨hle, hpos, hrun, hstop⟩, rfl⟩ := State.hostRun_eq_next_iff.1 h
    exact ⟨n, t, hpos hfuel, hle, hrun, hstop, rfl⟩
  case answered =>
    intro fuel n s t hpos hle hrun hstop
    exact State.hostRun_eq_next_iff.2 ⟨n, t, ⟨hle, fun _ => hpos, hrun, hstop⟩, rfl⟩

end Sys2Proof.Machine
end

section
/-! The signals of one engine (spec/92_eei_decisions.md D19; log 26), on either transport. The port inputs are the receive
seen from outside, and the port outputs show what an instruction took and sent. -/

namespace Sys2Proof.Machine

/-! ### The port inputs are the receive -/

@[simp] theorem State.start_inputPins (s : State) : s.start.inputPins = s.inputPins := rfl

@[simp] theorem State.showPrompt_inputPins (s : State) : s.showPrompt.inputPins = s.inputPins := by
  simp [State.inputPins]

theorem State.inputPins_of_value {s s' : State} {v : Val} (h : s.recv = .value v s') :
    s.inputPins.inValid = true ∧ s.inputPins.inData = some v := by
  rcases State.recv_value_cases h with ⟨hmode, rest, hq, -⟩ | ⟨hmode, hreply, -⟩
  · simp [State.inputPins, hmode, hq]
  · simp [State.inputPins, hmode, hreply]

theorem State.inputPins_of_closed {s : State} {e : Trap} (h : s.recv = .closed e) :
    s.inputPins.inValid = false ∧ s.inputPins.inClosed = true := by
  cases hmode : s.tmode with
  | channel =>
    rw [State.recv_channel hmode, State.recvChannel] at h
    split at h
    next => cases h
    next hq =>
      split at h
      next => cases h
      next hopen => simp [State.inputPins, hmode, hq, hopen]
  | interactive =>
    rw [State.recv_interactive hmode, State.recvTerminal] at h
    split at h
    next => cases h
    next => cases h
    next hreply => simp [State.inputPins, hmode, hreply]

/-! ### The port outputs follow the instruction -/

theorem portPins_inReady_iff (s t : State) :
    (portPins s t).inReady = true ↔
      t.inq.length < s.inq.length ∨ s.termDraws < t.termDraws ∧ t.prompted = false := by
  simp [portPins, tookReply]

/-- A step that leaves the input queue and the terminal's counter takes nothing. -/
theorem portPins_inReady_of_same {s t : State} (hinq : t.inq = s.inq) (hdraws : t.termDraws = s.termDraws) :
    (portPins s t).inReady = false := by
  rw [Bool.eq_false_iff, Ne, portPins_inReady_iff, hinq, hdraws]
  simp

/-- An Input that receives a value takes it, whatever it then does with it. -/
theorem portPins_inReady_of_value {s s' : State} {v : Val} (h : s.showPrompt.recv = .value v s') (k n : Nat) :
    (portPins s ((s'.store k v).advance n)).inReady = true := by
  rw [portPins_inReady_iff]
  rcases State.recv_value_cases h with ⟨-, rest, hq, rfl⟩ | ⟨-, -, rfl⟩
  · rw [s.showPrompt_inq] at hq
    exact .inl (by simp [hq])
  · exact .inr (by simp)

/-- An Input that goes on waiting takes nothing: on the terminal its prompt still stands. -/
theorem portPins_inReady_of_blocked {s t : State} (h : s.showPrompt.recv = .blocked t) :
    (portPins s t).inReady = false := by
  rcases State.recv_blocked_cases h with ⟨hmode, rfl⟩ | ⟨hmode, rfl⟩
  · exact portPins_inReady_of_same s.showPrompt_inq s.showPrompt_termDraws
  · rw [s.showPrompt_tmode] at hmode
    rw [Bool.eq_false_iff, Ne, portPins_inReady_iff]
    simp [State.drawn, s.showPrompt_prompted hmode]

/-- Of all effects only that of a completed Input takes a value. -/
theorem InstrEffect.inReady_iff {s t : State} {i : Instr} (h : InstrEffect s i t) (hrun : s.status = .running) :
    (portPins s t).inReady = true ↔ ∃ d, i = .input d ∧ t.status = .running ∧ t.ip = s.ip + 2 := by
  cases h with
  | received d k v s' hrecv =>
    refine iff_of_true (portPins_inReady_of_value hrecv k 2) ⟨d, rfl, ?_, ?_⟩
    · rw [State.advance_status, State.store_status, State.recv_value_status hrecv, s.showPrompt_status, hrun]
    · rw [State.advance_ip, State.store_ip, State.recv_value_ip hrecv, s.showPrompt_ip]
  | waited d _ hrecv =>
    refine iff_of_false (Bool.eq_false_iff.1 (portPins_inReady_of_blocked hrecv)) ?_
    rintro ⟨-, -, -, hip⟩
    rw [State.recv_blocked_ip hrecv, s.showPrompt_ip] at hip
    omega
  | fault i e =>
    refine iff_of_false (Bool.eq_false_iff.1 (portPins_inReady_of_same rfl rfl)) ?_
    rintro ⟨-, -, hafter, -⟩
    cases hafter
  | promptedFault d e =>
    refine iff_of_false
      (Bool.eq_false_iff.1 (portPins_inReady_of_same s.showPrompt_inq s.showPrompt_termDraws)) ?_
    rintro ⟨-, -, hafter, -⟩
    cases hafter
  | stored i k v hi =>
    refine iff_of_false (Bool.eq_false_iff.1 (portPins_inReady_of_same rfl rfl)) ?_
    rintro ⟨d, rfl, -⟩
    simp [threeOperandOpcodes, Instr.opcode] at hi
  | jumped i a b _ _ hi | passed i a b hi =>
    refine iff_of_false (Bool.eq_false_iff.1 (portPins_inReady_of_same rfl rfl)) ?_
    rintro ⟨d, rfl, -⟩
    simp at hi
  | sent | adjusted | halted =>
    refine iff_of_false (Bool.eq_false_iff.1 (portPins_inReady_of_same rfl rfl)) ?_
    rintro ⟨d, hi, -⟩
    cases hi

theorem portPins_outData_of_same {s t : State} (h : t.outq = s.outq) : (portPins s t).outData = none := by
  simp [portPins, h]

/-- Only an Output whose operand has a value shows one. -/
theorem exec_outData_iff {i : Instr} {s t : State} (h : exec i s = .next t) (x : Val) :
    (portPins s t).outData = some x ↔ ∃ a, i = .output a ∧ s.src a = .ok x := by
  by_cases hi : ∃ a, i = .output a
  case pos =>
    obtain ⟨a, rfl⟩ := hi
    rw [exec_output] at h
    cases hsrc : s.src a with
    | ok y =>
      rw [execOutput_next hsrc] at h
      cases h
      simp [portPins, hsrc]
    | error e =>
      rw [execOutput_error hsrc] at h
      cases h
      rw [portPins_outData_of_same (s.raise_outq e)]
      simp [hsrc]
  case neg =>
    rw [portPins_outData_of_same ((exec_instrEffect h).outq_of_not_output (not_exists.1 hi))]
    refine iff_of_false (Option.some_ne_none x).symm ?_
    rintro ⟨a, rfl, -⟩
    exact hi ⟨a, rfl⟩

/-- The instruction at `ip` is the one that decodes there, with its own size. -/
theorem State.decodeAt_eq_ok_iff {s : State} {ip n : Nat} {i j : Instr} (h : s.decodeAt ip = .ok (i, n)) :
    s.decodeAt ip = .ok (j, j.size) ↔ i = j := by
  obtain rfl := State.decodeAt_size h
  rw [h]
  constructor
  · intro hij
    cases hij
    rfl
  · rintro rfl
    rfl

/-- Settles O55: the step takes and sends what its instruction does, and a decode fault does neither. -/
theorem portPinsFollowTheStep : Obligations.PortPinsFollowTheStep := by
  intro s t hrun hstep
  rcases step_cases hstep with ⟨hstopped, -⟩ | ⟨-, -, f, hdec, rfl⟩ | ⟨-, -, i, n, hdec, hexec⟩
  · exact absurd hrun hstopped
  · simp only [hdec]
    rw [portPins_inReady_of_same (s := s) (s.start.raise_inq _) (s.start.raise_termDraws _),
      portPins_outData_of_same (s := s) (s.start.raise_outq _)]
    simp
  · constructor
    · have hinput : ∀ d, s.decodeAt s.ip = .ok (.input d, 2) ↔ i = .input d := fun d => State.decodeAt_eq_ok_iff hdec
      simp only [hinput]
      exact (exec_instrEffect hexec).inReady_iff hrun
    · intro x
      have houtput : ∀ a, s.decodeAt s.ip = .ok (.output a, 2) ↔ i = .output a := fun a => State.decodeAt_eq_ok_iff hdec
      simp only [houtput]
      exact exec_outData_iff hexec x

/-! ### An Input under its pins -/

/-- A step at an Input with a valid destination is the Input, from the state with its prompt shown. -/
theorem step_of_input {s t : State} {d : Operand} {k n : Nat} (hrun : s.status = .running)
    (hdec : s.decodeAt s.ip = .ok (.input d, n)) (hdst : s.dst 1 d = .ok k) (hstep : step s = .next t) :
    t = s.start.showPrompt.inputTo k := by
  rcases step_cases hstep with ⟨hstopped, -⟩ | ⟨-, -, f, hdec', -⟩ | ⟨-, -, i, m, hdec', hexec⟩
  · exact absurd hrun hstopped
  · cases hdec.symm.trans hdec'
  · cases hdec.symm.trans hdec'
    rw [exec_input, execInput_ok (show s.start.dst 1 d = .ok k from hdst)] at hexec
    cases hexec
    rfl

/-- Settles O54: the Input's receive is one of three, each with its own pins. -/
theorem inputPinsDecideInput : Obligations.InputPinsDecideInput := by
  intro s t d k hwf hrun hdec hdst hroom hstep
  have ht := step_of_input hrun hdec hdst hstep
  have hpins : s.start.showPrompt.inputPins = s.inputPins := by simp
  cases hrecv : s.start.showPrompt.recv with
  | value v s' =>
    have hsame : s.SameMemory s' :=
      s.start_sameMemory.trans (s.start.showPrompt_sameMemory.trans (State.recv_value_sameMemory hrecv))
    rw [State.inputTo_value hrecv ((hsame.roomFor k).trans ((s.roomFor_iff_hasRoom k).2 hroom))] at ht
    obtain ⟨hvalid, hdata⟩ := State.inputPins_of_value hrecv
    rw [hpins] at hvalid hdata
    subst ht
    refine ⟨fun w _ hw => ⟨?status, ?ip, ?read, portPins_inReady_of_value (s := s.start) hrecv k 2⟩, by simp [hdata],
      by simp [hvalid], by simp [hvalid]⟩
    case status =>
      rw [State.advance_status, State.store_status, State.recv_value_status hrecv, State.showPrompt_status,
        State.start_status, hrun]
    case ip => rw [State.advance_ip, State.store_ip, State.recv_value_ip hrecv, State.showPrompt_ip, State.start_ip]
    case read =>
      obtain rfl : v = w := Option.some.inj (hdata.symm.trans hw)
      exact State.store_read_same (hsame.mem ▸ hwf) k v
  | blocked s' =>
    rw [State.inputTo_blocked hrecv] at ht
    obtain ⟨hvalid, hclosed⟩ := s.start.showPrompt.recv_blocked_iff_pins.1 ⟨s', hrecv⟩
    rw [hpins] at hvalid hclosed
    subst ht
    refine ⟨by simp [hvalid], by simp [hvalid], by simp [hclosed], fun _ _ => ⟨?status, ?ip, ?mem, ?ready⟩⟩
    case status => rw [State.recv_blocked_status hrecv, State.showPrompt_status, State.start_status, hrun]
    case ip => rw [State.recv_blocked_ip hrecv, State.showPrompt_ip, State.start_ip]
    case mem => rw [State.recv_blocked_mem hrecv, State.showPrompt_mem, State.start_mem]
    case ready => exact portPins_inReady_of_blocked (s := s.start) hrecv
  | closed e =>
    rw [State.inputTo_closed hrecv] at ht
    obtain ⟨hvalid, hclosed⟩ := State.inputPins_of_closed hrecv
    rw [hpins] at hvalid hclosed
    subst ht
    exact ⟨by simp [hvalid], by simp [hvalid], fun _ _ => ⟨_, rfl⟩, by simp [hclosed]⟩

/-! ### Step enable -/

theorem State.fetch_eq_instr_iff {s : State} {i : Instr} :
    s.fetch = .instr i ↔ s.status = .running ∧ s.ip < addressSpace ∧ s.decodeAt s.ip = .ok (i, i.size) := by
  rcases s.fetch_cases with ⟨hs, hf⟩ | ⟨-, hout, hf⟩ | ⟨-, -, f, hdec, hf⟩ | ⟨hs, hip, j, n, hdec, hf⟩
  · simp [hf, hs]
  · simp [hf, hout.not_gt]
  · simp [hf, hdec]
  · simp [hf, hs, hip, State.decodeAt_eq_ok_iff hdec]

/-- A running engine that can step stands at an address. -/
theorem ip_lt_of_step {s t : State} (hrun : s.status = .running) (h : step s = .next t) : s.ip < addressSpace := by
  rcases step_cases h with ⟨hstopped, -⟩ | ⟨-, hip, -⟩ | ⟨-, hip, -⟩
  · exact absurd hrun hstopped
  · exact hip
  · exact hip

/-- When the next attempt to step will block, by the pins. -/
theorem State.stepBlocks_iff_pins {s t : State} (hstep : step s = .next t) :
    s.stepBlocks = true ↔
      s.status = .running ∧ (∃ d k, s.decodeAt s.ip = .ok (.input d, 2) ∧ s.dst 1 d = .ok k) ∧
        s.inputPins.inValid = false ∧ s.inputPins.inClosed = false := by
  rw [s.stepBlocks_iff, ← s.recv_blocked_iff_pins]
  constructor
  · rintro ⟨d, k, s', hfetch, hdst, hrecv⟩
    obtain ⟨hrun, -, hdec⟩ := State.fetch_eq_instr_iff.1 hfetch
    exact ⟨hrun, ⟨d, k, hdec, hdst⟩, s', hrecv⟩
  · rintro ⟨hrun, ⟨d, k, hdec, hdst⟩, s', hrecv⟩
    exact ⟨d, k, s', State.fetch_eq_instr_iff.2 ⟨hrun, ip_lt_of_step hrun hstep, hdec⟩, hdst, hrecv⟩

/-- What a cycle that steps does. -/
theorem Clocked.cycle_of_enabled {stepEn : Bool} {c c' : Clocked} (hen : stepEn = true ∨ c.inProgress = true)
    (h : c.cycle stepEn = .next c') :
    step c.engine = .next c'.engine ∧ c'.inProgress = c.engine.stepBlocks := by
  have hgate : (stepEn || c.inProgress) = true := by simpa using hen
  rw [Clocked.cycle, if_pos hgate] at h
  cases hstep : step c.engine with
  | next t =>
    simp only [hstep, Host.Outcome.next.injEq] at h
    subst h
    exact ⟨rfl, rfl⟩
  | fault r => simp [hstep] at h
  | refused r => simp [hstep] at h

/-- Settles O56: `step_en` stands in the gate alone, and what the cycle records is `State.stepBlocks`. -/
theorem stepEnableGatesOnlyTheStart : Obligations.StepEnableGatesOnlyTheStart := by
  intro c
  refine ⟨?idle, ?goesOn, ?steps⟩
  case idle =>
    intro hidle
    simp [Clocked.cycle, hidle]
  case goesOn =>
    intro hbusy
    simp [Clocked.cycle, hbusy]
  case steps =>
    intro stepEn c' hen hcycle
    obtain ⟨hstep, hprogress⟩ := Clocked.cycle_of_enabled hen hcycle
    rw [hprogress]
    exact ⟨hstep, State.stepBlocks_iff_pins hstep⟩

end Sys2Proof.Machine
end

section
/-! Hidden state (spec/10_state.md R33, R29): an instruction reads the materialisation set only to see whether a write has
room, and `claimed` and `started` not at all. So two states that differ in these three alone, and have room for the same
writes, go on differing in these three alone. -/

namespace Sys2Proof.Machine

/-- `s` with other hidden state: the materialisation set, `claimed` and `started`. -/
def State.withHidden (s : State) (e : List Nat) (b b' : Bool) : State := { s with ext := e, claimed := b, started := b' }

@[simp] theorem State.withHidden_src (s : State) (e : List Nat) (b b' : Bool) (o : Operand) :
    (s.withHidden e b b').src o = s.src o := State.src_congr rfl rfl o

@[simp] theorem State.withHidden_dst (s : State) (e : List Nat) (b b' : Bool) (p : Nat) (o : Operand) :
    (s.withHidden e b b').dst p o = s.dst p o := State.dst_congr rfl p o

theorem State.withHidden_showPrompt (s : State) (e : List Nat) (b b' : Bool) :
    (s.withHidden e b b').showPrompt = s.showPrompt.withHidden e b b' := by
  cases hmode : s.tmode with
  | channel => rw [s.showPrompt_channel hmode, State.showPrompt_channel (s.withHidden e b b') hmode]
  | interactive =>
    rw [State.showPrompt_of_interactive hmode, State.showPrompt_of_interactive (s := s.withHidden e b b') hmode]
    rfl

/-- A receive with the states in it changed by `f`. -/
def Received.map (f : State → State) : Received → Received
  | .value v s => .value v (f s)
  | .blocked s => .blocked (f s)
  | .closed t => .closed t

theorem State.withHidden_recv (s : State) (e : List Nat) (b b' : Bool) :
    (s.withHidden e b b').recv = s.recv.map (·.withHidden e b b') := by
  cases hmode : s.tmode with
  | channel =>
    rw [State.recv_channel hmode, State.recv_channel (s := s.withHidden e b b') hmode]
    cases hq : s.inq with
    | cons v rest => simp [State.recvChannel, State.withHidden, hq, Received.map, State.setInq]
    | nil => cases hopen : s.inOpen <;> simp [State.recvChannel, State.withHidden, hq, hopen, Received.map]
  | interactive =>
    have hreply : (s.withHidden e b b').reply (s.withHidden e b b').nextEvent = s.reply s.nextEvent := rfl
    rw [State.recv_interactive hmode, State.recv_interactive (s := s.withHidden e b b') hmode]
    cases hr : s.reply s.nextEvent with
    | value v => rw [State.recvTerminal_value hr, State.recvTerminal_value (hreply.trans hr)]; rfl
    | retry => rw [State.recvTerminal_retry hr, State.recvTerminal_retry (hreply.trans hr)]; rfl
    | fault t => rw [State.recvTerminal_fault hr, State.recvTerminal_fault (hreply.trans hr)]; rfl

/-! ### Results that differ in hidden state alone -/

/-- `t'` is `t` with `claimed` and `started` as given and some materialisation set, that of `t` if `e` was that of `s`. -/
def HiddenAlike (s : State) (e : List Nat) (b b' : Bool) (t t' : State) : Prop :=
  ∃ e', t' = t.withHidden e' b b' ∧ (e = s.ext → e' = t.ext)

/-- The same fault, or states that differ in hidden state alone. -/
inductive ResultsAlike (s : State) (e : List Nat) (b b' : Bool) : Except Trap State → Except Trap State → Prop where
  | ok {t t' : State} (h : HiddenAlike s e b b' t t') : ResultsAlike s e b b' (.ok t) (.ok t')
  | error (x : Trap) : ResultsAlike s e b b' (.error x) (.error x)

section
variable {s : State} {e : List Nat} {b b' : Bool}

theorem HiddenAlike.of_ext_eq {t : State} (h : t.ext = s.ext) : HiddenAlike s e b b' t (t.withHidden e b b') :=
  ⟨e, rfl, fun he => he.trans h.symm⟩

theorem State.SameMemory.withHidden {u : State} (h : s.SameMemory u) :
    (s.withHidden e b b').SameMemory (u.withHidden e b b') :=
  ⟨h.mem, rfl, h.progLen, h.memCapacity⟩

/-- A check that both make alike, and then what follows it. -/
theorem ResultsAlike.bind {α : Type} (x : Except Trap α) {f f' : α → Except Trap State}
    (h : ∀ w, ResultsAlike s e b b' (f w) (f' w)) : ResultsAlike s e b b' (x >>= f) (x >>= f') := by
  cases x with
  | error t => exact .error t
  | ok w => exact h w

/-- The write of an instruction and its advance: both have room or neither, and both materialise the same address. -/
theorem ResultsAlike.memWrite (hroom : ∀ k, (s.withHidden e b b').roomFor k = s.roomFor k) {u : State}
    (hu : s.SameMemory u) (k : Nat) (v : Val) (n : Nat) :
    ResultsAlike s e b b' (do let w ← u.memWrite k v; return w.advance n)
      (do let w ← (u.withHidden e b b').memWrite k v; return w.advance n) := by
  have hroom' : (u.withHidden e b b').roomFor k = u.roomFor k := by
    rw [hu.withHidden.roomFor, hroom, hu.roomFor]
  unfold State.memWrite
  rw [hroom']
  cases u.roomFor k with
  | false => exact .error _
  | true =>
    refine .ok ⟨((u.withHidden e b b').store k v).ext, rfl, ?_⟩
    rintro rfl
    rw [State.advance_ext, State.store_ext, State.store_ext, hu.ext]
    rfl

theorem ResultsAlike.settle {r r' : Except Trap State} (h : ResultsAlike s e b b' r r') {u : State} (hu : u.ext = s.ext) :
    HiddenAlike s e b b' (u.settle r) ((u.withHidden e b b').settle r') := by
  cases h with
  | ok h => exact h
  | error x => exact .of_ext_eq (t := u.raise x) hu

/-! ### Every instruction -/

/-- Both outcomes are next states, which differ in hidden state alone. -/
def OutcomesAlike (s : State) (e : List Nat) (b b' : Bool) (o o' : Host.Outcome State Fault Refusal) : Prop :=
  ∃ t t', o = .next t ∧ o' = .next t' ∧ HiddenAlike s e b b' t t'

theorem ResultsAlike.commit {r r' : Except Trap State} (h : ResultsAlike s e b b' r r') :
    OutcomesAlike s e b b' (commit s r) (commit (s.withHidden e b b') r') :=
  ⟨_, _, rfl, rfl, h.settle rfl⟩

theorem jumpWhen_alike (cond : Val → Bool) (a o : Operand) :
    OutcomesAlike s e b b' (jumpWhen cond a o s) (jumpWhen cond a o (s.withHidden e b b')) := by
  unfold jumpWhen
  rw [State.withHidden_src, State.withHidden_src]
  refine ResultsAlike.commit (.bind _ fun x => .bind _ fun y => .bind _ fun k => .ok ?_)
  cases cond x
  · exact .of_ext_eq (t := s.advance 3) rfl
  · exact .of_ext_eq (t := s.jump k) rfl

theorem execOutput_alike (a : Operand) :
    OutcomesAlike s e b b' (execOutput a s) (execOutput a (s.withHidden e b b')) := by
  unfold execOutput
  rw [State.withHidden_src]
  exact ResultsAlike.commit (.bind _ fun x => .ok (.of_ext_eq (t := (s.send x).advance 2) rfl))

theorem execAdjustRelativeBase_alike (a : Operand) :
    OutcomesAlike s e b b' (execAdjustRelativeBase a s) (execAdjustRelativeBase a (s.withHidden e b b')) := by
  unfold execAdjustRelativeBase
  rw [State.withHidden_src]
  exact ResultsAlike.commit
    (.bind _ fun x => .bind _ fun r => .ok (.of_ext_eq (t := (s.setRb r).advance 2) rfl))

variable (hroom : ∀ k, (s.withHidden e b b').roomFor k = s.roomFor k)
include hroom

theorem threeOperand_alike (op : Val → Val → Except Trap Val) (a o d : Operand) :
    OutcomesAlike s e b b' (threeOperand op a o d s) (threeOperand op a o d (s.withHidden e b b')) := by
  unfold threeOperand
  rw [State.withHidden_src, State.withHidden_src, State.withHidden_dst]
  exact ResultsAlike.commit (.bind _ fun x => .bind _ fun y => .bind _ fun k => .bind _ fun r =>
    .memWrite hroom ⟨rfl, rfl, rfl, rfl⟩ k r 4)

/-- An Input from any state with the memory of `s`, as its prompt leaves it. -/
theorem State.inputTo_alike {u : State} (hu : s.SameMemory u) (k : Nat) :
    HiddenAlike s e b b' (u.inputTo k) ((u.withHidden e b b').inputTo k) := by
  unfold State.inputTo
  rw [State.withHidden_recv]
  cases hrecv : u.recv with
  | value v u' =>
    exact (ResultsAlike.memWrite hroom (hu.trans (State.recv_value_sameMemory hrecv)) k v 2).settle hu.ext
  | blocked u' => exact .of_ext_eq (hu.trans (State.recv_blocked_sameMemory hrecv)).ext
  | closed t => exact .of_ext_eq (t := u.raise t) hu.ext

theorem execInput_alike (d : Operand) :
    OutcomesAlike s e b b' (execInput d s) (execInput d (s.withHidden e b b')) := by
  refine ⟨_, _, rfl, rfl, ?_⟩
  rw [State.withHidden_dst]
  cases s.dst 1 d with
  | error t => exact .of_ext_eq (t := s.raise t) rfl
  | ok k =>
    simp only [State.withHidden_showPrompt]
    exact State.inputTo_alike hroom s.showPrompt_sameMemory k

theorem exec_alike (i : Instr) : OutcomesAlike s e b b' (exec i s) (exec i (s.withHidden e b b')) := by
  cases i with
  | add a o d | multiply a o d | lessThan a o d | equals a o d => exact threeOperand_alike hroom _ a o d
  | jumpIfTrue a o | jumpIfFalse a o => exact jumpWhen_alike _ a o
  | input d => exact execInput_alike hroom d
  | output a => exact execOutput_alike a
  | adjustRelativeBase a => exact execAdjustRelativeBase_alike a
  | halt => exact ⟨_, _, rfl, rfl, .of_ext_eq (t := s.halt) rfl⟩

/-- The same, for the next state an instruction is known to answer. -/
theorem exec_withHidden {i : Instr} {t : State} (h : exec i s = .next t) :
    ∃ e', exec i (s.withHidden e b b') = .next (t.withHidden e' b b') ∧ (e = s.ext → e' = t.ext) := by
  obtain ⟨u, u', hu, hu', e', rfl, he'⟩ := exec_alike hroom i
  cases h.symm.trans hu
  exact ⟨e', hu', he'⟩

end

theorem State.roomFor_of_unbounded {s : State} (h : s.memCapacity = none) (k : Nat) : s.roomFor k = true := by
  simp [State.roomFor, h]

/-- Settles O42: with unbounded capacity every write has room, and with the same set the same writes have. -/
theorem hiddenStateIsUnobservable : Obligations.HiddenStateIsUnobservable := by
  intro i s t e b b' hexec
  constructor
  case left =>
    intro hunbounded
    have hroom : ∀ k, (s.withHidden e s.claimed s.started).roomFor k = s.roomFor k := fun k => by
      rw [State.roomFor_of_unbounded hunbounded, State.roomFor_of_unbounded (s := s.withHidden e _ _) hunbounded]
    obtain ⟨e', hexec', -⟩ := exec_withHidden hroom hexec
    have hhost := exec_sameHost hexec
    refine ⟨e', hexec'.trans ?_⟩
    rw [State.withHidden, ← hhost.claimed, ← hhost.started]
  case right =>
    obtain ⟨e', hexec', he'⟩ := exec_withHidden (e := s.ext) (b := b) (b' := b') (fun _ => rfl) hexec
    rw [he' rfl] at hexec'
    exact hexec'

end Sys2Proof.Machine
end
